-- ==== Sys2Proof/Word.lean ====
section
/-! DEFINITION. The word types of the machine and their plainest arithmetic (spec/00_scope.md R12, R16, R18;
spec/30_encoding.md R130). Anything a test could show wrong (sign extension, bit fields, floats) stands under Machine/. -/

namespace Sys2Proof

/-- One IEEE-754 binary32 bit pattern (R18): the element type of the tile and of GEMM's arrays (R82). -/
abbrev F32 := BitVec 32

/-- One byte of the platform's memory. -/
abbrev Byte := BitVec 8

/-- The 21-bit control word `CW` of R115. -/
abbrev ControlWord := BitVec 21

/-- The 3-bit command code `CMD` of R123. -/
abbrev CommandCode := BitVec 3

/-- `+0.0`, the pattern 0x00000000 (R18, R52). -/
abbrev F32.posZero : F32 := 0x00000000#32

/-- `FLT_MAX`, the pattern 0x7F7FFFFF (R18). -/
abbrev F32.maxFinite : F32 := 0x7F7FFFFF#32

/-- `+infinity`, the pattern 0x7F800000 (R299). -/
abbrev F32.posInf : F32 := 0x7F800000#32

end Sys2Proof
end

