-- ==== Sys2Proof/Syntax.lean ====
section
/-! DEFINITION. The control surface as data: the six control inputs of the slice, the ten micro-operation classes and
the instructions, one constructor per mnemonic of spec/opcode_table.json (spec/00_scope.md R2; spec/30_encoding.md R110 to
R117, R119, R123, R128). A bit of a row's encoding that the row leaves free, and that the row's rule reads or names, is an
operand of the constructor. The operands of a tile command are typed values on ports, not bits of a word (R125 to R127):
they stand in the state, not here. -/

namespace Sys2Proof

/-- The six control inputs of the slice (R34, R110). -/
structure Control where
  opmode      : BitVec 7
  alumode     : BitVec 4
  inmode      : BitVec 5
  carryinsel  : BitVec 3
  carryin     : BitVec 1
  carrycascin : BitVec 1
deriving DecidableEq, Repr, Inhabited

/-- What selects a function of the two-input logic unit (R119, R227): the Y code, 0 or 2 in logic mode, and ALUMODE. -/
structure LogicCode where
  ysel    : BitVec 2
  alumode : BitVec 4
deriving DecidableEq, Repr, Inhabited

/-- The ten micro-operation classes of R117, in their order of evaluation. -/
inductive OpClass where
  | asel | bsel | dgate | preadd | mult | xmux | ymux | zmux | cin | alu
deriving DecidableEq, Repr, Inhabited

/-- The class that follows in the data-flow order of R117; none after the ALU. -/
def OpClass.succ : OpClass → Option OpClass
  | .asel => some .bsel
  | .bsel => some .dgate
  | .dgate => some .preadd
  | .preadd => some .mult
  | .mult => some .xmux
  | .xmux => some .ymux
  | .ymux => some .zmux
  | .zmux => some .cin
  | .cin => some .alu
  | .alu => none

/-- The ten classes in order (R117). -/
def OpClass.all : List OpClass :=
  [.asel, .bsel, .dgate, .preadd, .mult, .xmux, .ymux, .zmux, .cin, .alu]

/-- The instructions (R2): 58 slice micro-operations, five tile commands, three reserved command codes. -/
inductive Instr where
  -- A select (R151 to R153); `cap1` is the free bit INMODE[0] of ASEL.ZERO
  | aselC2
  | aselC1
  | aselZero (cap1 : BitVec 1)
  -- B select (R154, R155)
  | bselC2
  | bselC1
  -- D gate (R156, R157)
  | dgateOff
  | dgateOn
  -- pre-adder (R158, R159)
  | preaddAdd
  | preaddSub
  -- multiplier (R161)
  | mult
  -- X mux (R170 to R174); `ysel` is the Y code that is not 1
  | xmuxZero
  | xmuxM
  | xmuxMIll (ysel : BitVec 2)
  | xmuxP
  | xmuxAb
  -- Y mux (R175 to R179); `xsel` is the X code that is not 1
  | ymuxZero
  | ymuxM
  | ymuxMIll (xsel : BitVec 2)
  | ymuxOnes
  | ymuxC
  -- Z mux (R180 to R187)
  | zmuxZero
  | zmuxPcin
  | zmuxP
  | zmuxC
  | zmuxPcond (xsel ysel : BitVec 2)
  | zmuxPcin17
  | zmuxP17
  | zmuxRsvd
  -- carry select (R200 to R207); the raw carry bits are operands of the two codes that read them
  | cinCarryin (carryin : BitVec 1)
  | cinNpcin47
  | cinCarrycascin (carrycascin : BitVec 1)
  | cinPcin47
  | cinCcofb
  | cinNp47
  | cinA24xb17
  | cinP47
  -- ALU, arithmetic mode (R221 to R225)
  | add3
  | add3Nz
  | notAdd3
  | zsub
  | arithRsvd (alumode : BitVec 4)
  -- ALU, logic mode, YSEL = 0 (R228 to R235)
  | xorY0A4
  | xnorY0A5
  | xnorY0A6
  | xorY0A7
  | andY0A12
  | andnY0A13
  | nandY0A14
  | ornxY0A15
  -- ALU, logic mode, YSEL = 2 (R236 to R243)
  | xnorY2A4
  | xorY2A5
  | xorY2A6
  | xnorY2A7
  | orY2A12
  | ornY2A13
  | norY2A14
  | andnxY2A15
  -- ALU, logic mode, a code without a row of its own (R244); the Y code and ALUMODE select its cell of `LOGIC_TABLE`
  | logicRsvd (code : LogicCode)
  -- tile commands (R260, R263, R265, R286, R320)
  | init
  | reset
  | free
  | step
  | gemm
  -- reserved command codes (R128)
  | cmdRsvd5
  | cmdRsvd6
  | cmdRsvd7
deriving DecidableEq, Repr

/-- The micro-operation class of an instruction (R117); none for a tile command. -/
def Instr.opClass : Instr → Option OpClass
  | .aselC2 | .aselC1 | .aselZero _ => some .asel
  | .bselC2 | .bselC1 => some .bsel
  | .dgateOff | .dgateOn => some .dgate
  | .preaddAdd | .preaddSub => some .preadd
  | .mult => some .mult
  | .xmuxZero | .xmuxM | .xmuxMIll _ | .xmuxP | .xmuxAb => some .xmux
  | .ymuxZero | .ymuxM | .ymuxMIll _ | .ymuxOnes | .ymuxC => some .ymux
  | .zmuxZero | .zmuxPcin | .zmuxP | .zmuxC | .zmuxPcond _ _ | .zmuxPcin17 | .zmuxP17 | .zmuxRsvd => some .zmux
  | .cinCarryin _ | .cinNpcin47 | .cinCarrycascin _ | .cinPcin47 | .cinCcofb | .cinNp47 | .cinA24xb17 | .cinP47 =>
    some .cin
  | .add3 | .add3Nz | .notAdd3 | .zsub | .arithRsvd _ | .xorY0A4 | .xnorY0A5 | .xnorY0A6 | .xorY0A7 | .andY0A12
  | .andnY0A13 | .nandY0A14 | .ornxY0A15 | .xnorY2A4 | .xorY2A5 | .xorY2A6 | .xnorY2A7 | .orY2A12 | .ornY2A13
  | .norY2A14 | .andnxY2A15 | .logicRsvd _ => some .alu
  | .init | .reset | .free | .step | .gemm | .cmdRsvd5 | .cmdRsvd6 | .cmdRsvd7 => none

end Sys2Proof
end

