-- ==== Sys2Proof/Machine/LogicTable.lean ====
section
/-! DEFINITION. `LOGIC_TABLE`, the parameter of the two-input logic unit (spec/00_scope.md R14; spec/43_alu.md R227): which
bit function each pair of a Y code and an ALUMODE selects. The table is plain data, a list of its defined cells, so that the
machine can carry any table. -/

namespace Sys2Proof

/-- A two-input bit function as plain data: its value where neither bit is set, where that of Z alone is, where that of X
alone is, and where both are. -/
structure LogicFn where
  onNeither : Bool
  onZ       : Bool
  onX       : Bool
  onBoth    : Bool
deriving DecidableEq, Repr, Inhabited

/-- The function at one bit of X and one bit of Z. -/
def LogicFn.at (f : LogicFn) (x z : Bool) : Bool :=
  match x, z with
  | false, false => f.onNeither
  | false, true => f.onZ
  | true, false => f.onX
  | true, true => f.onBoth

/-- One defined cell of the table. -/
structure LogicCell where
  code : LogicCode
  fn   : LogicFn
deriving DecidableEq, Repr, Inhabited

namespace Machine

/-! ### The function families of R227 -/

/-- X XOR Z. -/
def fnXor : LogicFn := ⟨false, true, true, false⟩
/-- X XNOR Z. -/
def fnXnor : LogicFn := ⟨true, false, false, true⟩
/-- X AND Z. -/
def fnAnd : LogicFn := ⟨false, false, false, true⟩
/-- X AND (NOT Z). -/
def fnAndNotZ : LogicFn := ⟨false, false, true, false⟩
/-- X NAND Z. -/
def fnNand : LogicFn := ⟨true, true, true, false⟩
/-- (NOT X) OR Z. -/
def fnNotXOr : LogicFn := ⟨true, true, false, true⟩
/-- X OR Z. -/
def fnOr : LogicFn := ⟨false, true, true, true⟩
/-- X OR (NOT Z). -/
def fnOrNotZ : LogicFn := ⟨true, false, true, true⟩
/-- X NOR Z. -/
def fnNor : LogicFn := ⟨true, false, false, false⟩
/-- (NOT X) AND Z. -/
def fnNotXAnd : LogicFn := ⟨false, true, false, false⟩

/-- The reference value of `LOGIC_TABLE`, the sixteen cells of R227 (GK2, D6). -/
def referenceLogicTable : List LogicCell :=
  [⟨⟨0, 4⟩, fnXor⟩, ⟨⟨0, 5⟩, fnXnor⟩, ⟨⟨0, 6⟩, fnXnor⟩, ⟨⟨0, 7⟩, fnXor⟩,
   ⟨⟨0, 12⟩, fnAnd⟩, ⟨⟨0, 13⟩, fnAndNotZ⟩, ⟨⟨0, 14⟩, fnNand⟩, ⟨⟨0, 15⟩, fnNotXOr⟩,
   ⟨⟨2, 4⟩, fnXnor⟩, ⟨⟨2, 5⟩, fnXor⟩, ⟨⟨2, 6⟩, fnXor⟩, ⟨⟨2, 7⟩, fnXnor⟩,
   ⟨⟨2, 12⟩, fnOr⟩, ⟨⟨2, 13⟩, fnOrNotZ⟩, ⟨⟨2, 14⟩, fnNor⟩, ⟨⟨2, 15⟩, fnNotXAnd⟩]

/-- `LOGIC_TABLE(YSEL, ALUMODE)` of a table: its first cell with that code; none where the code is reserved. -/
def lookupLogic (table : List LogicCell) (code : LogicCode) : Option LogicFn :=
  match table with
  | [] => none
  | cell :: rest => if cell.code = code then some cell.fn else lookupLogic rest code

end Machine

end Sys2Proof
end

