-- ==== Sys2Proof/Config.lean ====
section
/-! DEFINITION. What the spec leaves open (spec/00_scope.md R14; spec/92_eei_decisions.md, "Open parameters, collected";
spec/93_implementation_defined.md part 1). An OPEN parameter is an opaque constant, so that nothing can be proved of its
value; a parameter with a reference value stands here at that value. The two kinds meet in `Params`, which the machine
carries as plain data, so that a statement about every state is a statement about every value of every parameter. -/

namespace Sys2Proof

/-- `MULT_SPLIT` (R176, D7): what the Y mux carries when X and Y both select the multiplier. -/
inductive MultSplit where
  | dup   -- Y = M, the letter of the document's §4.1
  | sum   -- Y = 0, so that X + Y = M
deriving DecidableEq, Repr, Inhabited

/-- `ADDEND_ALIGN` (R288, D24): which product STEP's addend meets. -/
inductive AddendAlign where
  | atAddInput   -- the product that leaves the MUL line on this STEP (the spec's default)
  | withProduct  -- its own product: the MUL line carries the addend along
deriving DecidableEq, Repr, Inhabited

/-- `ROUND_FN` (R285, D19): the function `round_en` applies. The spec names two candidates and leaves the choice open;
`other` is any function F32 → F32 at all, `Config.roundOther`. -/
inductive RoundFn where
  | rneFmt   -- round to the format of `fmt`: the identity for FP32
  | rneInt   -- round to the nearest integer, ties to even
  | other    -- a function the spec does not name
deriving DecidableEq, Repr, Inhabited

/-- `FMUL`, `FADD` (R14, R283, R284, D18): which function a configuration field stands for. `other` is any function of the
two operands at all, `Config.fmulOther` or `Config.faddOther`. -/
inductive FloatFn where
  | ieee   -- IEEE-754 binary32, one rounding to nearest with ties to even
  | other  -- another total function of the two operands alone
deriving DecidableEq, Repr, Inhabited

/-- The parameters of R14 that are plain data. No step of the machine writes them. -/
structure Params where
  /-- `MULT_SPLIT`: open, no default (R176). -/
  multSplit : MultSplit
  /-- The `(XSEL, YSEL)` pairs that satisfy `Z4_COND` (R184). -/
  z4Cond : List (BitVec 2 × BitVec 2)
  /-- The defined cells of `LOGIC_TABLE` (R227). -/
  logicTable : List LogicCell
  /-- `ADDEND_ALIGN` (R288). -/
  addendAlign : AddendAlign
  /-- `ROUND_FN`: open, no default (R285). -/
  roundFn : RoundFn
  /-- `FMUL` (R283). -/
  fmulFn : FloatFn
  /-- `FADD` (R284). -/
  faddFn : FloatFn
  /-- `CNT_MAX`, the contribution counter's maximum (R42). -/
  cntMax : Nat
deriving DecidableEq, Repr

/-- The value of `MULT_SPLIT`: OPEN (R176, D7, U9). -/
opaque Config.multSplit : MultSplit

/-- The value of `ROUND_FN`: OPEN (R285, D19, U10). -/
opaque Config.roundFn : RoundFn

/-- The function `ROUND_FN` stands for where it is neither named candidate: free, a total function of its operand alone
(R285). -/
opaque Config.roundOther : F32 → F32

/-- The function `FMUL` stands for where it is not the IEEE-754 product: free, a total function of its two operands alone
(R283). -/
opaque Config.fmulOther : F32 → F32 → F32

/-- The same for `FADD` (R284). -/
opaque Config.faddOther : F32 → F32 → F32

/-- Sign and payload (less one, so that no payload is zero) of the NaN that `FMUL` returns for two operands: free
(R283, U3). A function of the operands, because R283 makes `FMUL` "a total function of its two operands alone". -/
opaque Config.mulNan : F32 → F32 → Bool × Fin 8388607

/-- The same for `FADD` (R284, U3). -/
opaque Config.addNan : F32 → F32 → Bool × Fin 8388607

/-- What GEMM would write for a lane (by its row and column) that never showed a valid output: free (R329, U5).
Unreachable by R332. -/
opaque Config.unseenLast : Nat → Nat → F32

/-- The reference value of `CNT_MAX`, 2^32 − 1 (R42, D15). -/
def Config.cntMax : Nat := 4294967295

/-- The reference value of `Z4_COND`: XSEL = 0 and YSEL = 2 (R184, D5). -/
def Config.z4Cond : List (BitVec 2 × BitVec 2) := [(0, 2)]

/-- The default value of `ADDEND_ALIGN`, the document's letter (R288, D24). -/
def Config.addendAlign : AddendAlign := .atAddInput

/-- The parameters of the machine after reset: the two open ones at their opaque constants, the others at the spec's
reference values. -/
def Config.params : Params where
  multSplit := Config.multSplit
  z4Cond := Config.z4Cond
  logicTable := Machine.referenceLogicTable
  addendAlign := Config.addendAlign
  roundFn := Config.roundFn
  fmulFn := .ieee
  faddFn := .ieee
  cntMax := Config.cntMax

end Sys2Proof
end

