-- ==== Sys2Proof/WellFormed.lean ====
section
/-! DEFINITION. Which terms of `Instr` stand for an encoding: the operand of a row must be a value that the row's rule
admits (spec/41_opmode_muxes.md R172, R177; spec/43_alu.md R225, R244). Every other constructor is well formed with every
operand. -/

namespace Sys2Proof

/-- The operand checks, one per row with a restricted operand. -/
def Instr.wellFormed : Instr → Bool
  -- R172: XSEL = 1 and YSEL is not 1
  | .xmuxMIll ysel => ysel != 1
  -- R177: YSEL = 1 and XSEL is not 1
  | .ymuxMIll xsel => xsel != 1
  -- R225: ALUMODE at least 4
  | .arithRsvd alumode => alumode.toNat ≥ 4
  -- R244: a Y code of logic mode, and ALUMODE none of the eight codes that have a row, that is ALUMODE[2] = 0
  | .logicRsvd code => code.ysel.getLsbD 0 == false && code.alumode.getLsbD 2 == false
  | .aselC2 | .aselC1 | .aselZero _ | .bselC2 | .bselC1 | .dgateOff | .dgateOn | .preaddAdd | .preaddSub | .mult
  | .xmuxZero | .xmuxM | .xmuxP | .xmuxAb | .ymuxZero | .ymuxM | .ymuxOnes | .ymuxC | .zmuxZero | .zmuxPcin | .zmuxP
  | .zmuxC | .zmuxPcond _ _ | .zmuxPcin17 | .zmuxP17 | .zmuxRsvd | .cinCarryin _ | .cinNpcin47 | .cinCarrycascin _
  | .cinPcin47 | .cinCcofb | .cinNp47 | .cinA24xb17 | .cinP47 | .add3 | .add3Nz | .notAdd3 | .zsub | .xorY0A4
  | .xnorY0A5 | .xnorY0A6 | .xorY0A7 | .andY0A12 | .andnY0A13 | .nandY0A14 | .ornxY0A15 | .xnorY2A4 | .xorY2A5
  | .xorY2A6 | .xnorY2A7 | .orY2A12 | .ornY2A13 | .norY2A14 | .andnxY2A15 | .init | .reset | .free | .step | .gemm
  | .cmdRsvd5 | .cmdRsvd6 | .cmdRsvd7 => true

end Sys2Proof
end

