-- ==== Sys2Proof/Decode.lean ====
section
/-! DEFINITION. The encoding of the control surface (spec/30_encoding.md R111 to R117, R119, R120, R123, R128, R129): the
control word packed and unpacked, the decoder of each micro-operation class, the decoder of a command code, the opcode table
transcribed, and the encoder. The decoders are written from the prose rules, the table is copied from
spec/opcode_table.json; that the two agree is a statement for the provers. -/

namespace Sys2Proof

/-! ### Fields of the control inputs (R129) -/

/-- `XSEL` = OPMODE[1:0]. -/
def Control.xsel (k : Control) : BitVec 2 := k.opmode.extractLsb' 0 2
/-- `YSEL` = OPMODE[3:2]. -/
def Control.ysel (k : Control) : BitVec 2 := k.opmode.extractLsb' 2 2
/-- `ZSEL` = OPMODE[6:4]. -/
def Control.zsel (k : Control) : BitVec 3 := k.opmode.extractLsb' 4 3
/-- `ARITH` = OPMODE[2], set when YSEL is 1 or 3 (R220). -/
def Control.arith (k : Control) : Bool := k.opmode.getLsbD 2
/-- OPMODE[3], the column of the logic table in logic mode (R119). -/
def Control.mirrored (k : Control) : Bool := k.opmode.getLsbD 3
/-- `A_CAP1` = INMODE[0] (R113). -/
def Control.aCap1 (k : Control) : BitVec 1 := k.inmode.extractLsb' 0 1
/-- `A_ZERO` = INMODE[1]. -/
def Control.aZero (k : Control) : Bool := k.inmode.getLsbD 1
/-- `D_EN` = INMODE[2]. -/
def Control.dEn (k : Control) : Bool := k.inmode.getLsbD 2
/-- `SUB` = INMODE[3]. -/
def Control.sub (k : Control) : Bool := k.inmode.getLsbD 3
/-- `B_CAP1` = INMODE[4]. -/
def Control.bCap1 (k : Control) : Bool := k.inmode.getLsbD 4

/-! ### The control word (R115) -/

/-- `CW` from the six control inputs: OPMODE lowest, CARRYCASCIN highest. -/
def Control.pack (k : Control) : ControlWord :=
  (k.carrycascin ++ k.carryin ++ k.carryinsel ++ k.inmode ++ k.alumode ++ k.opmode : BitVec 21)

/-- The six control inputs in a `CW`. -/
def Control.unpack (cw : ControlWord) : Control where
  opmode := cw.extractLsb' 0 7
  alumode := cw.extractLsb' 7 4
  inmode := cw.extractLsb' 11 5
  carryinsel := cw.extractLsb' 16 3
  carryin := cw.extractLsb' 19 1
  carrycascin := cw.extractLsb' 20 1

/-! ### Decoding (R116, R117): total, every control word selects one row of every class -/

/-- Class ASEL (R151 to R153): INMODE[1] has priority over INMODE[0]. -/
def decodeAsel (k : Control) : Instr :=
  if k.aZero then .aselZero k.aCap1 else if k.aCap1 = 1 then .aselC1 else .aselC2

/-- Class BSEL (R154, R155). -/
def decodeBsel (k : Control) : Instr := if k.bCap1 then .bselC1 else .bselC2

/-- Class DGATE (R156, R157). -/
def decodeDgate (k : Control) : Instr := if k.dEn then .dgateOn else .dgateOff

/-- Class PREADD (R158, R159). -/
def decodePreadd (k : Control) : Instr := if k.sub then .preaddSub else .preaddAdd

/-- Class XMUX (R170 to R174). -/
def decodeXmux (k : Control) : Instr :=
  match k.xsel.toNat with
  | 0 => .xmuxZero
  | 1 => if k.ysel = 1 then .xmuxM else .xmuxMIll k.ysel
  | 2 => .xmuxP
  | _ => .xmuxAb

/-- Class YMUX (R175 to R179). -/
def decodeYmux (k : Control) : Instr :=
  match k.ysel.toNat with
  | 0 => .ymuxZero
  | 1 => if k.xsel = 1 then .ymuxM else .ymuxMIll k.xsel
  | 2 => .ymuxOnes
  | _ => .ymuxC

/-- Class ZMUX (R180 to R187). -/
def decodeZmux (k : Control) : Instr :=
  match k.zsel.toNat with
  | 0 => .zmuxZero
  | 1 => .zmuxPcin
  | 2 => .zmuxP
  | 3 => .zmuxC
  | 4 => .zmuxPcond k.xsel k.ysel
  | 5 => .zmuxPcin17
  | 6 => .zmuxP17
  | _ => .zmuxRsvd

/-- Class CIN (R200 to R207). -/
def decodeCin (k : Control) : Instr :=
  match k.carryinsel.toNat with
  | 0 => .cinCarryin k.carryin
  | 1 => .cinNpcin47
  | 2 => .cinCarrycascin k.carrycascin
  | 3 => .cinPcin47
  | 4 => .cinCcofb
  | 5 => .cinNp47
  | 6 => .cinA24xb17
  | _ => .cinP47

/-- Class ALU in arithmetic mode (R221 to R225). -/
def decodeArith (alumode : BitVec 4) : Instr :=
  match alumode.toNat with
  | 0 => .add3
  | 1 => .add3Nz
  | 2 => .notAdd3
  | 3 => .zsub
  | _ => .arithRsvd alumode

/-- Class ALU in logic mode with YSEL = 0 (R228 to R235, R244). -/
def decodeLogicY0 (alumode : BitVec 4) : Instr :=
  match alumode.toNat with
  | 4 => .xorY0A4
  | 5 => .xnorY0A5
  | 6 => .xnorY0A6
  | 7 => .xorY0A7
  | 12 => .andY0A12
  | 13 => .andnY0A13
  | 14 => .nandY0A14
  | 15 => .ornxY0A15
  | _ => .logicRsvd ⟨0, alumode⟩

/-- Class ALU in logic mode with YSEL = 2 (R236 to R244). -/
def decodeLogicY2 (alumode : BitVec 4) : Instr :=
  match alumode.toNat with
  | 4 => .xnorY2A4
  | 5 => .xorY2A5
  | 6 => .xorY2A6
  | 7 => .xnorY2A7
  | 12 => .orY2A12
  | 13 => .ornY2A13
  | 14 => .norY2A14
  | 15 => .andnxY2A15
  | _ => .logicRsvd ⟨2, alumode⟩

/-- Class ALU: the mode is chosen by YSEL alone (R119, R220). -/
def decodeAlu (k : Control) : Instr :=
  if k.arith then decodeArith k.alumode
  else if k.mirrored then decodeLogicY2 k.alumode else decodeLogicY0 k.alumode

/-- The micro-operation of one class that a control word selects (R117). -/
def decodeClass (c : OpClass) (cw : ControlWord) : Instr :=
  let k := Control.unpack cw
  match c with
  | .asel => decodeAsel k
  | .bsel => decodeBsel k
  | .dgate => decodeDgate k
  | .preadd => decodePreadd k
  | .mult => .mult
  | .xmux => decodeXmux k
  | .ymux => decodeYmux k
  | .zmux => decodeZmux k
  | .cin => decodeCin k
  | .alu => decodeAlu k

/-- The command of a command code (R123, R128). -/
def decodeCommand (code : CommandCode) : Instr :=
  match code.toNat with
  | 0 => .init
  | 1 => .reset
  | 2 => .free
  | 3 => .step
  | 4 => .gemm
  | 5 => .cmdRsvd5
  | 6 => .cmdRsvd6
  | _ => .cmdRsvd7

/-- What the machine decodes: a control word at one class, or a command code. -/
inductive Encoded where
  | control (c : OpClass) (cw : ControlWord)
  | command (code : CommandCode)
deriving DecidableEq, Repr

/-- The decoder. It is total and refuses nothing (R116, R120). -/
def decode : Encoded → Instr
  | .control c cw => decodeClass c cw
  | .command code => decodeCommand code

/-- Why a number is no word of the control surface. Raised by `decodeNumber` only: the ports of the machine have the
declared widths, so no state can hold such a word. -/
inductive DecodeReject where
  /-- A bit above CW[20] is set (R115). -/
  | bitAboveControlWord
  /-- A bit above CMD[2] is set (R123). -/
  | bitAboveCommandCode
  /-- No bits at all. -/
  | noBits
deriving DecidableEq, Repr

/-- The ten micro-operations that one control word selects, in order (R117). -/
def decodeEvaluation (cw : ControlWord) : List Instr := OpClass.all.map (decodeClass · cw)

/-! ### The opcode table -/

/-- One row of spec/opcode_table.json: the row is selected when `word &&& mask = pattern`. -/
structure Row where
  mnemonic : String
  cls      : Option OpClass   -- none: a row over CMD
  pattern  : BitVec 21
  mask     : BitVec 21
deriving DecidableEq, Repr

/-- The rows of the first-stage classes. -/
def rowsFirstStage : List Row :=
  [⟨"ASEL.C2", some .asel, 0x000000, 0x001800⟩,
   ⟨"ASEL.C1", some .asel, 0x000800, 0x001800⟩,
   ⟨"ASEL.ZERO", some .asel, 0x001000, 0x001000⟩,
   ⟨"BSEL.C2", some .bsel, 0x000000, 0x008000⟩,
   ⟨"BSEL.C1", some .bsel, 0x008000, 0x008000⟩,
   ⟨"DGATE.OFF", some .dgate, 0x000000, 0x002000⟩,
   ⟨"DGATE.ON", some .dgate, 0x002000, 0x002000⟩,
   ⟨"PREADD.ADD", some .preadd, 0x000000, 0x004000⟩,
   ⟨"PREADD.SUB", some .preadd, 0x004000, 0x004000⟩,
   ⟨"MULT", some .mult, 0x000000, 0x000000⟩]

/-- The rows of the three muxes. -/
def rowsMux : List Row :=
  [⟨"XMUX.ZERO", some .xmux, 0x000000, 0x000003⟩,
   ⟨"XMUX.M", some .xmux, 0x000005, 0x00000F⟩,
   ⟨"XMUX.M_ILL", some .xmux, 0x000001, 0x000007⟩,
   ⟨"XMUX.M_ILL", some .xmux, 0x00000D, 0x00000F⟩,
   ⟨"XMUX.P", some .xmux, 0x000002, 0x000003⟩,
   ⟨"XMUX.AB", some .xmux, 0x000003, 0x000003⟩,
   ⟨"YMUX.ZERO", some .ymux, 0x000000, 0x00000C⟩,
   ⟨"YMUX.M", some .ymux, 0x000005, 0x00000F⟩,
   ⟨"YMUX.M_ILL", some .ymux, 0x000004, 0x00000F⟩,
   ⟨"YMUX.M_ILL", some .ymux, 0x000006, 0x00000E⟩,
   ⟨"YMUX.ONES", some .ymux, 0x000008, 0x00000C⟩,
   ⟨"YMUX.C", some .ymux, 0x00000C, 0x00000C⟩,
   ⟨"ZMUX.ZERO", some .zmux, 0x000000, 0x000070⟩,
   ⟨"ZMUX.PCIN", some .zmux, 0x000010, 0x000070⟩,
   ⟨"ZMUX.P", some .zmux, 0x000020, 0x000070⟩,
   ⟨"ZMUX.C", some .zmux, 0x000030, 0x000070⟩,
   ⟨"ZMUX.PCOND", some .zmux, 0x000040, 0x000070⟩,
   ⟨"ZMUX.PCIN17", some .zmux, 0x000050, 0x000070⟩,
   ⟨"ZMUX.P17", some .zmux, 0x000060, 0x000070⟩,
   ⟨"ZMUX.RSVD", some .zmux, 0x000070, 0x000070⟩]

/-- The rows of the carry select. -/
def rowsCin : List Row :=
  [⟨"CIN.CARRYIN", some .cin, 0x000000, 0x070000⟩,
   ⟨"CIN.NPCIN47", some .cin, 0x010000, 0x070000⟩,
   ⟨"CIN.CARRYCASCIN", some .cin, 0x020000, 0x070000⟩,
   ⟨"CIN.PCIN47", some .cin, 0x030000, 0x070000⟩,
   ⟨"CIN.CCOFB", some .cin, 0x040000, 0x070000⟩,
   ⟨"CIN.NP47", some .cin, 0x050000, 0x070000⟩,
   ⟨"CIN.A24XB17", some .cin, 0x060000, 0x070000⟩,
   ⟨"CIN.P47", some .cin, 0x070000, 0x070000⟩]

/-- The rows of the ALU. -/
def rowsAlu : List Row :=
  [⟨"ADD3", some .alu, 0x000004, 0x000784⟩,
   ⟨"ADD3.NZ", some .alu, 0x000084, 0x000784⟩,
   ⟨"NOT.ADD3", some .alu, 0x000104, 0x000784⟩,
   ⟨"ZSUB", some .alu, 0x000184, 0x000784⟩,
   ⟨"ARITH.RSVD", some .alu, 0x000204, 0x000604⟩,
   ⟨"ARITH.RSVD", some .alu, 0x000404, 0x000604⟩,
   ⟨"ARITH.RSVD", some .alu, 0x000604, 0x000604⟩,
   ⟨"XOR.y0.a4", some .alu, 0x000200, 0x00078C⟩,
   ⟨"XNOR.y0.a5", some .alu, 0x000280, 0x00078C⟩,
   ⟨"XNOR.y0.a6", some .alu, 0x000300, 0x00078C⟩,
   ⟨"XOR.y0.a7", some .alu, 0x000380, 0x00078C⟩,
   ⟨"AND.y0.a12", some .alu, 0x000600, 0x00078C⟩,
   ⟨"ANDN.y0.a13", some .alu, 0x000680, 0x00078C⟩,
   ⟨"NAND.y0.a14", some .alu, 0x000700, 0x00078C⟩,
   ⟨"ORNX.y0.a15", some .alu, 0x000780, 0x00078C⟩,
   ⟨"XNOR.y2.a4", some .alu, 0x000208, 0x00078C⟩,
   ⟨"XOR.y2.a5", some .alu, 0x000288, 0x00078C⟩,
   ⟨"XOR.y2.a6", some .alu, 0x000308, 0x00078C⟩,
   ⟨"XNOR.y2.a7", some .alu, 0x000388, 0x00078C⟩,
   ⟨"OR.y2.a12", some .alu, 0x000608, 0x00078C⟩,
   ⟨"ORN.y2.a13", some .alu, 0x000688, 0x00078C⟩,
   ⟨"NOR.y2.a14", some .alu, 0x000708, 0x00078C⟩,
   ⟨"ANDNX.y2.a15", some .alu, 0x000788, 0x00078C⟩,
   ⟨"LOGIC.RSVD", some .alu, 0x000000, 0x000204⟩]

/-- The rows over `CMD`. -/
def rowsCommand : List Row :=
  [⟨"INIT", none, 0x000000, 0x000007⟩,
   ⟨"RESET", none, 0x000001, 0x000007⟩,
   ⟨"FREE", none, 0x000002, 0x000007⟩,
   ⟨"STEP", none, 0x000003, 0x000007⟩,
   ⟨"GEMM", none, 0x000004, 0x000007⟩,
   ⟨"CMD.RSVD5", none, 0x000005, 0x000007⟩,
   ⟨"CMD.RSVD6", none, 0x000006, 0x000007⟩,
   ⟨"CMD.RSVD7", none, 0x000007, 0x000007⟩]

/-- The opcode table, 70 rows. -/
def opcodeRows : List Row := rowsFirstStage ++ rowsMux ++ rowsCin ++ rowsAlu ++ rowsCommand

/-- The mnemonic of an instruction, as the table spells it. -/
def Instr.mnemonic : Instr → String
  | .aselC2 => "ASEL.C2"
  | .aselC1 => "ASEL.C1"
  | .aselZero _ => "ASEL.ZERO"
  | .bselC2 => "BSEL.C2"
  | .bselC1 => "BSEL.C1"
  | .dgateOff => "DGATE.OFF"
  | .dgateOn => "DGATE.ON"
  | .preaddAdd => "PREADD.ADD"
  | .preaddSub => "PREADD.SUB"
  | .mult => "MULT"
  | .xmuxZero => "XMUX.ZERO"
  | .xmuxM => "XMUX.M"
  | .xmuxMIll _ => "XMUX.M_ILL"
  | .xmuxP => "XMUX.P"
  | .xmuxAb => "XMUX.AB"
  | .ymuxZero => "YMUX.ZERO"
  | .ymuxM => "YMUX.M"
  | .ymuxMIll _ => "YMUX.M_ILL"
  | .ymuxOnes => "YMUX.ONES"
  | .ymuxC => "YMUX.C"
  | .zmuxZero => "ZMUX.ZERO"
  | .zmuxPcin => "ZMUX.PCIN"
  | .zmuxP => "ZMUX.P"
  | .zmuxC => "ZMUX.C"
  | .zmuxPcond _ _ => "ZMUX.PCOND"
  | .zmuxPcin17 => "ZMUX.PCIN17"
  | .zmuxP17 => "ZMUX.P17"
  | .zmuxRsvd => "ZMUX.RSVD"
  | .cinCarryin _ => "CIN.CARRYIN"
  | .cinNpcin47 => "CIN.NPCIN47"
  | .cinCarrycascin _ => "CIN.CARRYCASCIN"
  | .cinPcin47 => "CIN.PCIN47"
  | .cinCcofb => "CIN.CCOFB"
  | .cinNp47 => "CIN.NP47"
  | .cinA24xb17 => "CIN.A24XB17"
  | .cinP47 => "CIN.P47"
  | .add3 => "ADD3"
  | .add3Nz => "ADD3.NZ"
  | .notAdd3 => "NOT.ADD3"
  | .zsub => "ZSUB"
  | .arithRsvd _ => "ARITH.RSVD"
  | .xorY0A4 => "XOR.y0.a4"
  | .xnorY0A5 => "XNOR.y0.a5"
  | .xnorY0A6 => "XNOR.y0.a6"
  | .xorY0A7 => "XOR.y0.a7"
  | .andY0A12 => "AND.y0.a12"
  | .andnY0A13 => "ANDN.y0.a13"
  | .nandY0A14 => "NAND.y0.a14"
  | .ornxY0A15 => "ORNX.y0.a15"
  | .xnorY2A4 => "XNOR.y2.a4"
  | .xorY2A5 => "XOR.y2.a5"
  | .xorY2A6 => "XOR.y2.a6"
  | .xnorY2A7 => "XNOR.y2.a7"
  | .orY2A12 => "OR.y2.a12"
  | .ornY2A13 => "ORN.y2.a13"
  | .norY2A14 => "NOR.y2.a14"
  | .andnxY2A15 => "ANDNX.y2.a15"
  | .logicRsvd _ => "LOGIC.RSVD"
  | .init => "INIT"
  | .reset => "RESET"
  | .free => "FREE"
  | .step => "STEP"
  | .gemm => "GEMM"
  | .cmdRsvd5 => "CMD.RSVD5"
  | .cmdRsvd6 => "CMD.RSVD6"
  | .cmdRsvd7 => "CMD.RSVD7"

/-! ### Encoding -/

/-- The bits of `CW` that an instruction's operands and row fix: its row's mask and its operands' bits. -/
def Instr.codeMask : Instr → BitVec 21
  | .aselC2 | .aselC1 | .aselZero _ => 0x001800
  | .bselC2 | .bselC1 => 0x008000
  | .dgateOff | .dgateOn => 0x002000
  | .preaddAdd | .preaddSub => 0x004000
  | .mult => 0x000000
  | .xmuxZero | .xmuxP | .xmuxAb => 0x000003
  | .xmuxM | .xmuxMIll _ | .ymuxM | .ymuxMIll _ => 0x00000F
  | .ymuxZero | .ymuxOnes | .ymuxC => 0x00000C
  | .zmuxZero | .zmuxPcin | .zmuxP | .zmuxC | .zmuxPcin17 | .zmuxP17 | .zmuxRsvd => 0x000070
  | .zmuxPcond _ _ => 0x00007F
  | .cinCarryin _ => 0x0F0000
  | .cinNpcin47 | .cinPcin47 | .cinCcofb | .cinNp47 | .cinA24xb17 | .cinP47 => 0x070000
  | .cinCarrycascin _ => 0x170000
  | .add3 | .add3Nz | .notAdd3 | .zsub | .arithRsvd _ => 0x000784
  | .xorY0A4 | .xnorY0A5 | .xnorY0A6 | .xorY0A7 | .andY0A12 | .andnY0A13 | .nandY0A14 | .ornxY0A15 | .xnorY2A4 | .xorY2A5 | .xorY2A6 | .xnorY2A7 | .orY2A12 | .ornY2A13 | .norY2A14 | .andnxY2A15
  | .logicRsvd _ => 0x00078C
  | .init | .reset | .free | .step | .gemm | .cmdRsvd5 | .cmdRsvd6 | .cmdRsvd7 => 0x000007

/-- The bits of the word that stand for an instruction, every bit outside `codeMask` zero (the encoding tables of R111 to
R115, R119, R123). -/
def Instr.codeBits : Instr → BitVec 21
  | .aselC2 => 0x000000
  | .aselC1 => 0x000800
  | .aselZero cap1 => 0x001000 ||| (cap1.setWidth 21 <<< 11)
  | .bselC2 => 0x000000
  | .bselC1 => 0x008000
  | .dgateOff => 0x000000
  | .dgateOn => 0x002000
  | .preaddAdd => 0x000000
  | .preaddSub => 0x004000
  | .mult => 0x000000
  | .xmuxZero => 0x000000
  | .xmuxM => 0x000005
  | .xmuxMIll ysel => 0x000001 ||| (ysel.setWidth 21 <<< 2)
  | .xmuxP => 0x000002
  | .xmuxAb => 0x000003
  | .ymuxZero => 0x000000
  | .ymuxM => 0x000005
  | .ymuxMIll xsel => 0x000004 ||| xsel.setWidth 21
  | .ymuxOnes => 0x000008
  | .ymuxC => 0x00000C
  | .zmuxZero => 0x000000
  | .zmuxPcin => 0x000010
  | .zmuxP => 0x000020
  | .zmuxC => 0x000030
  | .zmuxPcond xsel ysel => 0x000040 ||| (ysel.setWidth 21 <<< 2) ||| xsel.setWidth 21
  | .zmuxPcin17 => 0x000050
  | .zmuxP17 => 0x000060
  | .zmuxRsvd => 0x000070
  | .cinCarryin carryin => 0x000000 ||| (carryin.setWidth 21 <<< 19)
  | .cinNpcin47 => 0x010000
  | .cinCarrycascin carrycascin => 0x020000 ||| (carrycascin.setWidth 21 <<< 20)
  | .cinPcin47 => 0x030000
  | .cinCcofb => 0x040000
  | .cinNp47 => 0x050000
  | .cinA24xb17 => 0x060000
  | .cinP47 => 0x070000
  | .add3 => 0x000004
  | .add3Nz => 0x000084
  | .notAdd3 => 0x000104
  | .zsub => 0x000184
  | .arithRsvd alumode => 0x000004 ||| (alumode.setWidth 21 <<< 7)
  | .xorY0A4 => 0x000200
  | .xnorY0A5 => 0x000280
  | .xnorY0A6 => 0x000300
  | .xorY0A7 => 0x000380
  | .andY0A12 => 0x000600
  | .andnY0A13 => 0x000680
  | .nandY0A14 => 0x000700
  | .ornxY0A15 => 0x000780
  | .xnorY2A4 => 0x000208
  | .xorY2A5 => 0x000288
  | .xorY2A6 => 0x000308
  | .xnorY2A7 => 0x000388
  | .orY2A12 => 0x000608
  | .ornY2A13 => 0x000688
  | .norY2A14 => 0x000708
  | .andnxY2A15 => 0x000788
  | .logicRsvd code => 0x000000 ||| (code.alumode.setWidth 21 <<< 7) ||| (code.ysel.setWidth 21 <<< 2)
  | .init => 0x000000
  | .reset => 0x000001
  | .free => 0x000002
  | .step => 0x000003
  | .gemm => 0x000004
  | .cmdRsvd5 => 0x000005
  | .cmdRsvd6 => 0x000006
  | .cmdRsvd7 => 0x000007

/-- The encoder: the control word of a micro-operation at its class, the code of a command. -/
def encode (i : Instr) : Encoded :=
  match i.opClass with
  | some c => .control c i.codeBits
  | none => .command (i.codeBits.setWidth 3)

/-! ### One instruction from the bits of one table row

A control word selects ten micro-operations at once (R117), so that no decoder can read ONE instruction from its bits alone;
the class must be known. Where one is asked for, the micro-operation is named whose own bits of the word hold the most ones,
that is the one that the word selects least by default; among equals the last class in data-flow order. A log entry says
so. -/

/-- How many bits are set. -/
def popCount (w : BitVec 21) : Nat := (List.range 21).countP fun b => w.getLsbD b

/-- How many ones the row holds that selects an instruction in the word `cw`. -/
def Instr.rowOnes (i : Instr) (cw : ControlWord) : Nat :=
  match opcodeRows.find? fun r => decide (r.cls = i.opClass) && (cw &&& r.mask == r.pattern) with
  | some r => popCount r.pattern
  | none => 0

/-- The most specific micro-operation of a control word. -/
def decodeMostSpecific (cw : ControlWord) : Instr :=
  (decodeEvaluation cw).foldl (fun best i => if best.rowOnes cw ≤ i.rowOnes cw then i else best) .aselC2

/-- The instruction in a number of `nbits` bits: up to 8 bits are a command code, more a control word. -/
def decodeNumber (nbits w : Nat) : Except DecodeReject Instr :=
  if nbits = 0 then .error .noBits
  else if nbits ≤ 8 then
    if w < 8 then .ok (decodeCommand (BitVec.ofNat 3 w)) else .error .bitAboveCommandCode
  else if w < 2097152 then .ok (decodeMostSpecific (BitVec.ofNat 21 w)) else .error .bitAboveControlWord

/-- The instruction that the decoder reads from an opcode-table row's bits. -/
def decodeTableWord (nbits w : Nat) : Option Instr :=
  match decodeNumber nbits w with
  | .ok i => some i
  | .error _ => none

end Sys2Proof
end

