-- ==== Sys2Proof/Machine/State.lean ====
section
/-! DEFINITION. The state of the machine (spec/10_state.md; spec/20_memory.md; spec/44_tile_lifecycle.md), the reasons a
step can stop, and the state after reset. State is plain data. INVENTORY.md lists every field with its rule. -/

namespace Sys2Proof.Machine

/-! ### The slice: ports and the wires of an evaluation -/

/-- The operand values as the environment supplies them for one evaluation (R31, R32): integers of any size, of which
only the declared width counts (R150, U17). -/
structure Supplied where
  a1    : Int
  a2    : Int
  b1    : Int
  b2    : Int
  c     : Int
  d     : Int
  pcin  : Int
  pfb   : Int
  ccofb : BitVec 1
deriving DecidableEq, Repr, Inhabited

/-- The operand ports of the slice (R31) and the three further inputs (R32), at their declared widths. -/
structure Ports where
  a1    : BitVec 30
  a2    : BitVec 30
  b1    : BitVec 18
  b2    : BitVec 18
  c     : BitVec 48
  d     : BitVec 25
  pcin  : BitVec 48
  pfb   : BitVec 48
  ccofb : BitVec 1
deriving DecidableEq, Repr, Inhabited

/-- The internal nodes of one evaluation that a micro-operation writes (R36). The slice holds no state (R30): these are the
wires between the micro-operations of the evaluation in progress, and every evaluation writes each of them before it reads
it. `ASEL`, `BSEL`, `DEFF`, `AD` have their declared widths and are read as two's complement; `M`, `X`, `Y`, `Z`, `R` are
integers (R16). -/
structure Nodes where
  asel : BitVec 30
  bsel : BitVec 18
  deff : BitVec 25
  ad   : BitVec 25
  m    : Int
  x    : Int
  y    : Int
  z    : Int
  cin  : BitVec 1
  r    : Int
deriving DecidableEq, Repr, Inhabited

/-! ### The tile -/

/-- The configuration argument of INIT (R39, R125): five latencies in cycles, two enables. -/
structure Cfg where
  latMul  : Nat
  latAdd  : Nat
  latAcc  : Nat
  latRnd  : Nat
  latSat  : Nat
  roundEn : Bool
  satEn   : Bool
deriving DecidableEq, Repr, Inhabited

/-- The numeric kind tag of the format descriptor (R40). The spec gives tags no values. -/
inductive FmtKind where
  | fp32
  | other (tag : Nat)
deriving DecidableEq, Repr, Inhabited

/-- The format descriptor (R40): carried, without effect. -/
structure Fmt where
  kind      : FmtKind
  totalBits : Nat
  expBits   : Nat
  mantBits  : Nat
  fracBits  : Nat
  expBias   : Nat
deriving DecidableEq, Repr, Inhabited

/-- One slot of a delay line (R43): data and validity. -/
structure Slot where
  d : F32
  v : Bool
deriving DecidableEq, Repr, Inhabited

/-- One slot of the MUL line. Under `ADDEND_ALIGN` = `WITH_PRODUCT` the line carries the triple (product, addend,
validity); under `AT_ADD_INPUT` it carries the pair, and `addend` stays +0.0 (R288). -/
structure MulSlot where
  d      : F32
  addend : F32
  v      : Bool
deriving DecidableEq, Repr, Inhabited

/-- One lane (R41 to R43): the running sum, the contribution counter, and the five delay lines. Slot 0, the newest, is the
head of each list. -/
structure Lane where
  acc     : F32
  cnt     : Nat
  mulLine : List MulSlot
  addLine : List Slot
  accLine : List Slot
  rndLine : List Slot
  satLine : List Slot
deriving DecidableEq, Repr, Inhabited

/-- The phase of the GEMM sequencer (R48). -/
inductive SeqPhase where
  | main
  | drain
deriving DecidableEq, Repr, Inhabited

/-- The loop indices of the GEMM sequencer (R48, R323): `n` is `k` in the main phase and `d` in the drain. -/
structure SeqPos where
  phase : SeqPhase
  n     : Nat
  i     : Nat
  j     : Nat
deriving DecidableEq, Repr, Inhabited

/-- The sequencer's transient state (R48): where it stands, and the latch of each lane, at lane index `r·C + c`:
`none` while `seen` is 0 (and `last` unspecified), `some v` once `seen` is 1 and `last` is `v`. -/
structure Sequencer where
  pos   : SeqPos
  latch : List (Option F32)
deriving DecidableEq, Repr, Inhabited

/-- A LIVE tile (R38 to R44): the configuration registers, the grid of lanes at lane index `r·C + c` (R261, D32), the cycle
counter, and the sequencer's state, which exists during a GEMM only (R48). -/
structure Tile where
  rows  : Nat
  cols  : Nat
  depth : Nat
  cfg   : Cfg
  fmt   : Fmt
  lanes : List Lane
  cycle : Nat
  seq   : Option Sequencer
deriving DecidableEq, Repr, Inhabited

/-! ### The command port -/

/-- Where the caller's platform lays one array (R82, R87): its first element and its number of elements, in elements of
the platform's memory. -/
structure ArrayRef where
  base : Nat
  len  : Nat
deriving DecidableEq, Repr, Inhabited

/-- The typed operands of the command port (R123, R125 to R127) and INIT's environment draw `alloc_ok` (R260). -/
structure Args where
  cfg     : Cfg
  fmt     : Fmt
  rows    : Nat
  cols    : Nat
  depth   : Nat
  allocOk : Bool
  row     : Nat
  col     : Nat
  inputValid : Bool
  a       : F32
  b       : F32
  addend  : F32
  lhs     : Option ArrayRef
  rhs     : Option ArrayRef
  bias    : Option ArrayRef
  dst     : Option ArrayRef
  lda     : Nat
  ldb     : Nat
  ldd     : Nat
deriving DecidableEq, Repr, Inhabited

/-- The status a command returns (R124, R351). -/
inductive Status where
  | ok
  | config
  | alloc
  | bounds
deriving DecidableEq, Repr, Inhabited

/-- The results of the last command: its status (none for FREE, R351) and STEP's `out` and `out_valid`, produced with OK
only (R351). The tile does not store them, and no rule reads them. -/
structure Result where
  status : Option Status
  out    : Option Slot
deriving DecidableEq, Repr, Inhabited

/-! ### What the caller asks for -/

/-- One request of the caller: an evaluation of the slice with its operands and controls, or a tile command. -/
inductive Request where
  | evaluate (v : Supplied) (ctl : Control)
  | command (code : CommandCode) (args : Args)
deriving DecidableEq, Repr

/-- What the machine is doing between two steps: nothing, an evaluation whose next micro-operation is of class `c`, or a
command that stands on the command port. -/
inductive Activity where
  | idle
  | evaluating (c : OpClass)
  | commanded (code : CommandCode)
deriving DecidableEq, Repr, Inhabited

/-! ### Memory -/

/-- The platform's memory: bytes by address, in one canonical form (`Memory.wf`). -/
abbrev Memory := List Host.Cell

/-- What an unlisted address reads as. DESIGN CHOICE: the spec gives the arrays no contents of its own. -/
abbrev Memory.unlisted : Byte := 0#8

/-- The canonical form: addresses strictly rising, no entry equal to what an unlisted address reads as. -/
abbrev Memory.wf (m : Memory) : Prop :=
  m.Pairwise (fun a b => a.1 < b.1) ∧ ∀ c ∈ m, c.2 ≠ Memory.unlisted

/-! ### The state -/

/-- The state of the machine. -/
structure State where
  /-- The parameters of the model (R14). No step writes them. -/
  params   : Params
  /-- What the caller will ask for, in order (the model's own: the outside of the machine, R371). -/
  requests : List Request
  /-- What the machine is doing (the model's own). -/
  activity : Activity
  /-- The slice's operand ports (R31, R32). -/
  ports    : Ports
  /-- The slice's control inputs (R34). -/
  ctl      : Control
  /-- The wires of the evaluation in progress (R36). -/
  nodes    : Nodes
  /-- The slice's output `P` (R35). -/
  p        : BitVec 48
  /-- The operands on the command port (R123). -/
  args     : Args
  /-- The results of the last command (R351). -/
  result   : Result
  /-- The tile: `none` is UNALLOCATED, `some` is LIVE (R38). -/
  tile     : Option Tile
  /-- The platform's memory, which holds GEMM's arrays (R82, R87). -/
  mem      : Memory
deriving DecidableEq, Repr

/-- The machine raises no fault: the slice has no error channel, a failing command returns a status, and there is no
access fault, no illegal-instruction event, no halted state (R350, R364). No constructor: no step can fault. Safe. -/
inductive Fault where
deriving DecidableEq, Repr

/-- Why a step has no transition. R372: in these situations the spec gives no behaviour and the model "does not step". -/
inductive Refusal where
  /-- An instruction without a meaning. Raised by no arm. Safe. -/
  | notModelled (mnemonic : String)
  /-- INIT on a LIVE tile (R267, U1). Raised by INIT. Safe. -/
  | initOnLive
  /-- RESET, STEP or GEMM on an UNALLOCATED handle (R267, U1). Raised by those three. Safe. -/
  | unallocated
  /-- INIT with a format kind other than FP32 (R40, U2). Raised by INIT. Safe. -/
  | unsupportedFormat
  /-- GEMM without an LHS, RHS or DST array (R85, R372, U6). Raised by GEMM. Safe. -/
  | arrayAbsent
  /-- GEMM with an array shorter than the indices it uses (R85, U6). Raised by GEMM. Safe. -/
  | arrayTooShort
  /-- GEMM whose DST elements share storage with an input array (R88, U7). Raised by GEMM. Safe. -/
  | arrayOverlap
  /-- A command code 5, 6 or 7 (R128, U8). Raised by the three reserved commands. Safe. -/
  | reservedCommand
deriving DecidableEq, Repr

/-- Operands of the command port after reset: nothing is asked for. DESIGN CHOICE: ports have no reset value (R34).
`alloc_ok` is at the spec's reference value (R14), the format descriptor at its FP32 values (R40). -/
def Args.reset : Args where
  cfg := ⟨0, 0, 0, 0, 0, false, false⟩
  fmt := ⟨.fp32, 32, 8, 23, 0, 127⟩
  rows := 0
  cols := 0
  depth := 0
  allocOk := true
  row := 0
  col := 0
  inputValid := false
  a := F32.posZero
  b := F32.posZero
  addend := F32.posZero
  lhs := none
  rhs := none
  bias := none
  dst := none
  lda := 0
  ldb := 0
  ldd := 0

/-- The machine right after reset: the handle is UNALLOCATED and nothing else of the tile exists (R51, R54); the slice has
nothing to reset (R50), its ports and wires are zero (DESIGN CHOICE; `PCIN`, `PFB`, `CCOFB` zero as in the §6 entry-point
profile, R32); nothing is asked for; memory lists nothing. -/
def State.reset : State where
  params := Config.params
  requests := []
  activity := .idle
  ports := ⟨0, 0, 0, 0, 0, 0, 0, 0, 0⟩
  ctl := ⟨0, 0, 0, 0, 0, 0⟩
  nodes := ⟨0, 0, 0, 0, 0, 0, 0, 0, 0, 0⟩
  p := 0
  args := Args.reset
  result := ⟨none, none⟩
  tile := none
  mem := []

end Sys2Proof.Machine
end

