-- ==== Sys2Proof/Machine/Operands.lean ====
section
/-! DEFINITION. Operand forms of the slice (spec/00_scope.md R16, R17; spec/30_encoding.md R118; spec/40_operand_select.md
R150, R160; spec/41_opmode_muxes.md R174, R178, R185, R186): conditioning, the 25-bit view, the concatenation, the shifted
operands, and the bitwise operators on integers. -/

namespace Sys2Proof.Machine

/-! ### Integers (R16) -/

/-- `zext_N(v)` = v mod 2^N. -/
def zext (n : Nat) (v : Int) : Int := v % 2 ^ n

/-- `sext_N(v)`: the two's-complement reading of the low N bits of v. -/
def sext (n : Nat) (v : Int) : Int :=
  let u := v % 2 ^ n
  if 2 * u < 2 ^ n then u else u - 2 ^ n

/-- `~v` = −v − 1. -/
def intNot (v : Int) : Int := -v - 1

/-- The bits of `m` that are not bits of `n`. -/
def natDiff (m n : Nat) : Nat := m ^^^ (m &&& n)

/-- Bitwise AND on the infinite two's-complement expansions. -/
def intAnd : Int → Int → Int
  | .ofNat m, .ofNat n => .ofNat (m &&& n)
  | .ofNat m, .negSucc n => .ofNat (natDiff m n)
  | .negSucc m, .ofNat n => .ofNat (natDiff n m)
  | .negSucc m, .negSucc n => .negSucc (m ||| n)

/-- Bitwise OR, by De Morgan. -/
def intOr (x z : Int) : Int := intNot (intAnd (intNot x) (intNot z))

/-- Bitwise XOR. -/
def intXor : Int → Int → Int
  | .ofNat m, .ofNat n => .ofNat (m ^^^ n)
  | .ofNat m, .negSucc n => .negSucc (m ^^^ n)
  | .negSucc m, .ofNat n => .negSucc (m ^^^ n)
  | .negSucc m, .negSucc n => .ofNat (m ^^^ n)

/-- The integer whose every bit is a bit function of the bits of `x` and `z` (R226): the OR of the four cases in which the
function is 1. -/
def intLogic (f : LogicFn) (x z : Int) : Int :=
  let neither := if f.onNeither then intAnd (intNot x) (intNot z) else 0
  let onlyZ := if f.onZ then intAnd (intNot x) z else 0
  let onlyX := if f.onX then intAnd x (intNot z) else 0
  let both := if f.onBoth then intAnd x z else 0
  intOr (intOr neither onlyZ) (intOr onlyX both)

/-- A bit "promoted to the working integer width" (R118). -/
def bitInt (b : BitVec 1) : Int := b.toNat

/-! ### Conditioning (R150) -/

/-- The ports after conditioning: each supplied value is masked to its declared width; the bits above it are discarded
(U17). Sign extension is the two's-complement reading of the port, `BitVec.toInt`. -/
def condition (v : Supplied) : Ports where
  a1 := BitVec.ofInt 30 v.a1
  a2 := BitVec.ofInt 30 v.a2
  b1 := BitVec.ofInt 18 v.b1
  b2 := BitVec.ofInt 18 v.b2
  c := BitVec.ofInt 48 v.c
  d := BitVec.ofInt 25 v.d
  pcin := BitVec.ofInt 48 v.pcin
  pfb := BitVec.ofInt 48 v.pfb
  ccofb := v.ccofb

/-- `Cs` (R150). -/
def cs (s : State) : Int := s.ports.c.toInt

/-- `PCINs` (R150). -/
def pcins (s : State) : Int := s.ports.pcin.toInt

/-- `PFBs` (R150). -/
def pfbs (s : State) : Int := s.ports.pfb.toInt

/-! ### Operand forms (R118) -/

/-- `A25`, the pre-adder-facing view of the selected A: its low 25 bits, read as two's complement (R160). -/
def a25 (s : State) : BitVec 25 := s.nodes.asel.extractLsb' 0 25

/-- `AB`: the selected A in bits 47 to 18, the selected B in bits 17 to 0, read as two's complement (R174). -/
def ab (s : State) : Int := (s.nodes.asel ++ s.nodes.bsel : BitVec 48).toInt

/-- The fixed left shift by 17 of the Z mux (R185, R186). The direction is the document's (GK5). -/
def shl17 (v : Int) : Int := v * 2 ^ 17

/-- The value "with all 48 bits set", −1 as a signed 48-bit value (R178). -/
def allOnes : Int := -1

/-- The low 48 bits of an integer, `zext_48` as a 48-bit vector (R245). -/
def low48 (r : Int) : BitVec 48 := BitVec.ofInt 48 r

/-- `Z4_COND(XSEL, YSEL)`, a parameter (R184). -/
def z4Enabled (p : Params) (xsel ysel : BitVec 2) : Bool := p.z4Cond.contains (xsel, ysel)

/-- `LOGIC_TABLE(YSEL, ALUMODE)(X, Z)` where the machine's table defines it, else 0 (R226, R227, R246). -/
def tableLogic (s : State) (ysel : BitVec 2) (alumode : BitVec 4) : Int :=
  match lookupLogic s.params.logicTable ⟨ysel, alumode⟩ with
  | some f => intLogic f s.nodes.x s.nodes.z
  | none => 0

end Sys2Proof.Machine
end

