-- ==== Sys2Proof/Machine/Flags.lean ====
section
/-! DEFINITION. Single bits (spec/10_state.md R46). The slice has no flags: the bits here are its carry sources
(spec/42_carry_select.md R200 to R207). The tile's flags are the slots' validity bits, which only `push` moves
(spec/45_tile_step.md R280, in Machine/Ops.lean), and the status of a command (spec/30_encoding.md R124). -/

namespace Sys2Proof.Machine

/-- `PCIN[47]` (R203). -/
def pcin47 (s : State) : BitVec 1 := s.ports.pcin.extractLsb' 47 1

/-- `PFB[47]`, bit 47 of the prior result (R207). -/
def pfb47 (s : State) : BitVec 1 := s.ports.pfb.extractLsb' 47 1

/-- `ASEL[24]` (R206). -/
def asel24 (s : State) : BitVec 1 := s.nodes.asel.extractLsb' 24 1

/-- `BSEL[17]` (R206). -/
def bsel17 (s : State) : BitVec 1 := s.nodes.bsel.extractLsb' 17 1

/-- The numeric code of a status (R124). -/
def statusCode : Status → Nat
  | .ok => 0
  | .config => 1
  | .alloc => 2
  | .bounds => 3

/-- `L`, the sum of the five latencies (R261). -/
def Cfg.totalLat (cfg : Cfg) : Nat := cfg.latMul + cfg.latAdd + cfg.latAcc + cfg.latRnd + cfg.latSat

end Sys2Proof.Machine
end

