-- ==== Sys2Proof/Machine/Float.lean ====
section
/-! DEFINITION. The floating-point primitives of the tile (spec/00_scope.md R18; spec/45_tile_step.md R283 to R285):
IEEE-754 binary32 multiply and add, `sat32`, and `ROUND_FN` with its two named candidates. An operation computes its exact
result as an integer times a power of two and rounds once, in `roundPack`. -/

namespace Sys2Proof.Machine

/-! ### The fields of a pattern (R18) -/

/-- The sign bit. -/
def f32Sign (v : F32) : Bool := v.getLsbD 31

/-- The exponent field, 8 bits. -/
def f32Exp (v : F32) : Nat := (v.extractLsb' 23 8).toNat

/-- The fraction field, 23 bits. -/
def f32Frac (v : F32) : Nat := (v.extractLsb' 0 23).toNat

/-- `isfinite(v)`: the exponent field is not all ones (R18). -/
def isFinite (v : F32) : Bool := f32Exp v != 255

/-- An infinity. -/
def isInf (v : F32) : Bool := f32Exp v == 255 && f32Frac v == 0

/-- A NaN. -/
def isNaN (v : F32) : Bool := f32Exp v == 255 && f32Frac v != 0

/-- A zero of either sign. -/
def isZero (v : F32) : Bool := f32Exp v == 0 && f32Frac v == 0

/-- The significand of a finite pattern: the hidden bit is set unless the exponent field is zero. -/
def f32Mant (v : F32) : Nat := if f32Exp v = 0 then f32Frac v else f32Frac v + 8388608

/-- The exponent of the significand's last place, plus 149: zero for subnormals and for the smallest normals, so that a
finite pattern stands for ± `f32Mant` · 2^(`f32Scale` − 149). -/
def f32Scale (v : F32) : Nat := if f32Exp v = 0 then 0 else f32Exp v - 1

/-- A pattern from its sign and its 31 lower bits. -/
def f32Signed (s : Bool) (low : Nat) : F32 := BitVec.ofNat 32 ((if s then 2147483648 else 0) + low)

/-- The signed significand. -/
def f32Int (v : F32) : Int := if f32Sign v then -(f32Mant v : Int) else f32Mant v

/-! ### Rounding to nearest, ties to even -/

/-- `m / 2^n` to the nearest integer, ties to even. -/
def rneShift (m n : Nat) : Nat :=
  let q := m >>> n
  let rest := m % 2 ^ n
  if 2 ^ n < 2 * rest ∨ (2 ^ n = 2 * rest ∧ q % 2 = 1) then q + 1 else q

/-- The pattern nearest to ± `m` · 2^(`e` − 298), ties to even, with gradual underflow and overflow to infinity
(R283, R284). The last place kept is `q − 149`: 23 below the leading bit, but never below that of the subnormals. -/
def roundPack (s : Bool) (m e : Nat) : F32 :=
  if m = 0 then f32Signed s 0
  else
    -- the result's last place is q − 149, the operand's is e − 298
    let q := Nat.log2 m + e - 172
    let mant := if e ≤ q + 149 then rneShift m (q + 149 - e) else m <<< (e - (q + 149))
    let low := q * 8388608 + mant
    if low < 0x7F800000 then f32Signed s low else f32Signed s 0x7F800000

/-- A NaN with a given sign and payload less one. -/
def mkNaN (r : Bool × Fin 8388607) : F32 := f32Signed r.1 (0x7F800001 + r.2.val)

/-- The IEEE-754 binary32 product (R283). Sign and payload of a NaN are free. -/
def ieeeMul (a b : F32) : F32 :=
  let s := f32Sign a != f32Sign b
  if isNaN a || isNaN b || (isInf a && isZero b) || (isZero a && isInf b) then mkNaN (Config.mulNan a b)
  else if isInf a || isInf b then f32Signed s 0x7F800000
  else roundPack s (f32Mant a * f32Mant b) (f32Scale a + f32Scale b)

/-- The IEEE-754 binary32 sum (R284). A zero sum is −0.0 only where both operands are negative zeros; sign and
payload of a NaN are free. -/
def ieeeAdd (a b : F32) : F32 :=
  if isNaN a || isNaN b || (isInf a && isInf b && f32Sign a != f32Sign b) then mkNaN (Config.addNan a b)
  else if isInf a then a
  else if isInf b then b
  else
    let e := min (f32Scale a) (f32Scale b)
    let sum := f32Int a * 2 ^ (f32Scale a - e) + f32Int b * 2 ^ (f32Scale b - e)
    if sum = 0 then f32Signed (f32Sign a && f32Sign b) 0
    else roundPack (decide (sum < 0)) sum.natAbs (e + 149)

/-- `FMUL(a, b)` (R283), a configuration field: the IEEE-754 product, or another function of the two operands. -/
def fmul (p : Params) (a b : F32) : F32 :=
  match p.fmulFn with
  | .ieee => ieeeMul a b
  | .other => Config.fmulOther a b

/-- `FADD(a, b)` (R284), a configuration field: the IEEE-754 sum, or another function of the two operands. -/
def fadd (p : Params) (a b : F32) : F32 :=
  match p.faddFn with
  | .ieee => ieeeAdd a b
  | .other => Config.faddOther a b

/-- `sat32(v)` (R285): a non-finite value becomes the largest finite magnitude with its sign bit. -/
def sat32 (v : F32) : F32 := if isFinite v then v else (v &&& 0x80000000#32) ||| F32.maxFinite

/-- `RNE_INT` (R285): the nearest integer, ties to even, as an F32; NaN and infinities unchanged, the sign of zero
kept. A magnitude of 2^23 or more is an integer already. -/
def rneInt (v : F32) : F32 :=
  if 149 ≤ f32Scale v then v
  else roundPack (f32Sign v) (rneShift (f32Mant v) (149 - f32Scale v)) 298

/-- `ROUND_FN(v)` (R285): open; the identity for FP32, the rounding to integer, or a function left free. -/
def roundFn (f : RoundFn) (v : F32) : F32 :=
  match f with
  | .rneFmt => v
  | .rneInt => rneInt v
  | .other => Config.roundOther v

end Sys2Proof.Machine
end

