-- ==== Sys2Proof/Machine/Ops.lean ====
section
/-! DEFINITION. The named operations over memory, wires, lanes and results (spec/10_state.md R19 to R22 of the scope file's
notation; spec/20_memory.md; spec/45_tile_step.md R280; spec/60_exceptions.md R351, R360), and how a request reaches the
ports. -/

namespace Sys2Proof.Machine

/-! ### Memory -/

/-- The byte at an address. -/
def Memory.read (m : Memory) (a : Nat) : Byte :=
  match m with
  | [] => Memory.unlisted
  | (b, w) :: rest => if a = b then w else Memory.read rest a

/-- The memory with one byte written, in canonical form. -/
def Memory.write (m : Memory) (a : Nat) (v : Byte) : Memory :=
  match m with
  | [] => if v = Memory.unlisted then [] else [(a, v)]
  | (b, w) :: rest =>
    if a < b then (if v = Memory.unlisted then (b, w) :: rest else (a, v) :: (b, w) :: rest)
    else if a = b then (if v = Memory.unlisted then rest else (a, v) :: rest)
    else (b, w) :: Memory.write rest a v

/-- The F32 element at an element index of the platform's memory: bytes 4e to 4e + 3, least significant byte first.
DESIGN CHOICE: no rule observes the byte order (R83). -/
def Memory.readElem (m : Memory) (e : Nat) : F32 :=
  (m.read (4 * e + 3) ++ m.read (4 * e + 2) ++ m.read (4 * e + 1) ++ m.read (4 * e) : BitVec 32)

/-- The memory with one F32 element written. -/
def Memory.writeElem (m : Memory) (e : Nat) (v : F32) : Memory :=
  (((m.write (4 * e) (v.extractLsb' 0 8)).write (4 * e + 1) (v.extractLsb' 8 8)).write (4 * e + 2)
    (v.extractLsb' 16 8)).write (4 * e + 3) (v.extractLsb' 24 8)

/-- `MemRead(space, idx)` (R20, R83). -/
def memRead (m : Memory) (r : ArrayRef) (idx : Nat) : F32 := m.readElem (r.base + idx)

/-- `MemWrite(space, idx, v)` (R20, R83). -/
def memWrite (m : Memory) (r : ArrayRef) (idx : Nat) (v : F32) : Memory := m.writeElem (r.base + idx) v

/-! ### Updates of the state -/

/-- The state with other wires. -/
def State.withNodes (s : State) (n : Nodes) : State := { s with nodes := n }

/-- The state with another tile. -/
def State.withTile (s : State) (t : Option Tile) : State := { s with tile := t }

/-- The state with another memory. -/
def State.withMem (s : State) (m : Memory) : State := { s with mem := m }

/-- The ALU's write: the node `R`, and `P` as the low 48 bits of it (R245). -/
def State.withAlu (s : State) (r : Int) : State := { s with nodes := { s.nodes with r := r }, p := low48 r }

/-! ### Results of a command: the only exceptional events (R350, R351) -/

/-- `return Ok`: the status OK, no STEP output. -/
def returnOk (s : State) : State := { s with result := ⟨some .ok, none⟩ }

/-- `return Ok(out, out_valid)` (R295). -/
def returnOut (s : State) (o : Slot) : State := { s with result := ⟨some .ok, some o⟩ }

/-- Taking an error (R360): the command stops at its first failing check, changes nothing and returns the status. Nothing
is saved, nothing is entered, no mode changes; there is no return from it (R363). -/
def returnErr (s : State) (st : Status) : State := { s with result := ⟨some st, none⟩ }

/-- The end of FREE, which returns no status (R351). -/
def returnNone (s : State) : State := { s with result := ⟨none, none⟩ }

/-! ### The delay line -/

/-- `push` (R280): the newest entry enters at the front and the oldest leaves; a line of no slots passes its input
through (R281). The answer is the entry that leaves and the line after. -/
def push (line : List α) (x : α) : α × List α :=
  match line with
  | [] => (x, [])
  | y :: rest => ((y :: rest).getLast (List.cons_ne_nil y rest), x :: (y :: rest).dropLast)

/-! ### Lanes and the grid -/

/-- A cleared slot (R52). -/
def Slot.zero : Slot := ⟨F32.posZero, false⟩

/-- A cleared slot of the MUL line (R52). -/
def MulSlot.zero : MulSlot := ⟨F32.posZero, F32.posZero, false⟩

/-- A lane of a fresh tile: as after RESET, each line of its configured length (R53, R260). -/
def Lane.fresh (cfg : Cfg) : Lane where
  acc := F32.posZero
  cnt := 0
  mulLine := List.replicate cfg.latMul MulSlot.zero
  addLine := List.replicate cfg.latAdd Slot.zero
  accLine := List.replicate cfg.latAcc Slot.zero
  rndLine := List.replicate cfg.latRnd Slot.zero
  satLine := List.replicate cfg.latSat Slot.zero

/-- A lane after RESET: every slot cleared in place (R263). -/
def Lane.cleared (l : Lane) : Lane where
  acc := F32.posZero
  cnt := 0
  mulLine := l.mulLine.map fun _ => MulSlot.zero
  addLine := l.addLine.map fun _ => Slot.zero
  accLine := l.accLine.map fun _ => Slot.zero
  rndLine := l.rndLine.map fun _ => Slot.zero
  satLine := l.satLine.map fun _ => Slot.zero

/-- The lane (r, c), at lane index `r·C + c` (R261). -/
def Tile.lane (t : Tile) (r c : Nat) : Lane := t.lanes.getD (r * t.cols + c) (Lane.fresh t.cfg)

/-- The tile with another lane (r, c). -/
def Tile.withLane (t : Tile) (r c : Nat) (l : Lane) : Tile := { t with lanes := t.lanes.set (r * t.cols + c) l }

/-- A tile after a successful INIT (R53, R260). -/
def Tile.fresh (cfg : Cfg) (fmt : Fmt) (rows cols depth : Nat) : Tile where
  rows := rows
  cols := cols
  depth := depth
  cfg := cfg
  fmt := fmt
  lanes := List.replicate (rows * cols) (Lane.fresh cfg)
  cycle := 0
  seq := none

/-- A tile after RESET (R52, R263): every lane cleared, `cycle` zero, configuration and dimensions unchanged. -/
def Tile.cleared (t : Tile) : Tile := { t with lanes := t.lanes.map Lane.cleared, cycle := 0 }

/-! ### How a request reaches the ports, and what the machine decodes (R33, R94, R369) -/

/-- With nothing in progress, the next request of the caller is presented on the ports; its control fields and operands
are sampled together, once (R94, R405). -/
def present (s : State) : State :=
  match s.activity with
  | .idle =>
    match s.requests with
    | [] => s
    | .evaluate v ctl :: rest =>
      { s with requests := rest, activity := .evaluating .asel, ports := condition v, ctl := ctl }
    | .command code args :: rest => { s with requests := rest, activity := .commanded code, args := args }
  | .evaluating _ => s
  | .commanded _ => s

/-- What stands to be decoded: the control word at the class in turn, or the command code. -/
def fetch (s : State) : Option Encoded :=
  match s.activity with
  | .idle => none
  | .evaluating c => some (.control c s.ctl.pack)
  | .commanded code => some (.command code)

/-- After an instruction: the next class of the evaluation in data-flow order (R117), or nothing in progress. -/
def advance (s : State) : State :=
  match s.activity with
  | .idle => s
  | .evaluating c =>
    match c.succ with
    | some c' => { s with activity := .evaluating c' }
    | none => { s with activity := .idle }
  | .commanded _ => { s with activity := .idle }

end Sys2Proof.Machine
end

