-- ==== Sys2Proof/Machine/FirstStage.lean ====
section
/-! DEFINITION. The meanings of the first-stage micro-operations: A select, B select, D gate, pre-adder, multiplier
(spec/40_operand_select.md). Each writes its node and nothing else; none writes a flag or raises an error. -/

namespace Sys2Proof.Machine

/-- The outcome of a micro-operation of the slice (R350: it has no error channel). -/
abbrev Answer := Host.Outcome State Fault Refusal

/-- ASEL.C2 (R151): `ASEL <- A2s`. -/
def execAselC2 (s : State) : Answer := .next (s.withNodes { s.nodes with asel := s.ports.a2 })

/-- ASEL.C1 (R152): `ASEL <- A1s`. -/
def execAselC1 (s : State) : Answer := .next (s.withNodes { s.nodes with asel := s.ports.a1 })

/-- ASEL.ZERO (R153): `ASEL <- 0`, whatever INMODE[0] says. -/
def execAselZero (_cap1 : BitVec 1) (s : State) : Answer := .next (s.withNodes { s.nodes with asel := 0 })

/-- BSEL.C2 (R154): `BSEL <- B2s`. -/
def execBselC2 (s : State) : Answer := .next (s.withNodes { s.nodes with bsel := s.ports.b2 })

/-- BSEL.C1 (R155): `BSEL <- B1s`. -/
def execBselC1 (s : State) : Answer := .next (s.withNodes { s.nodes with bsel := s.ports.b1 })

/-- DGATE.OFF (R156): `DEFF <- 0`. -/
def execDgateOff (s : State) : Answer := .next (s.withNodes { s.nodes with deff := 0 })

/-- DGATE.ON (R157): `DEFF <- Ds`. -/
def execDgateOn (s : State) : Answer := .next (s.withNodes { s.nodes with deff := s.ports.d })

/-- PREADD.ADD (R158): `AD <- sext_25(DEFF + A25)`, wrapping. -/
def execPreaddAdd (s : State) : Answer :=
  .next (s.withNodes { s.nodes with ad := BitVec.ofInt 25 (s.nodes.deff.toInt + (a25 s).toInt) })

/-- PREADD.SUB (R159): `AD <- sext_25(DEFF − A25)`, wrapping: A is subtracted from D. -/
def execPreaddSub (s : State) : Answer :=
  .next (s.withNodes { s.nodes with ad := BitVec.ofInt 25 (s.nodes.deff.toInt - (a25 s).toInt) })

/-- MULT (R161): `M <- AD × BSEL`, the exact signed product. -/
def execMult (s : State) : Answer := .next (s.withNodes { s.nodes with m := s.nodes.ad.toInt * s.nodes.bsel.toInt })

end Sys2Proof.Machine
end

