-- ==== Sys2Proof/Machine/Alu.lean ====
section
/-! DEFINITION. The meanings of the stage-2 ALU (spec/43_alu.md). Each writes the integer node `R` and with it `P`, the low
48 bits of `R` (R245), and nothing else. The logic functions are the cells of the
parameter `LOGIC_TABLE` (R227). -/

namespace Sys2Proof.Machine

/-- `R <- v`, and `P <- zext_48(R)` (R245). -/
def writeR (v : Int) (s : State) : Answer := .next (s.withAlu v)

/-- X + Y + CIN, the addends that every arithmetic function takes together. -/
def xyc (s : State) : Int := s.nodes.x + s.nodes.y + bitInt s.nodes.cin

/-- ADD3 (R221): X + Y + Z + CIN. -/
def execAdd3 (s : State) : Answer := writeR (xyc s + s.nodes.z) s

/-- ADD3.NZ (R222): X + Y + (~Z) + CIN. -/
def execAdd3Nz (s : State) : Answer := writeR (xyc s + intNot s.nodes.z) s

/-- NOT.ADD3 (R223): ~(X + Y + Z + CIN). -/
def execNotAdd3 (s : State) : Answer := writeR (intNot (xyc s + s.nodes.z)) s

/-- ZSUB (R224): Z − (X + Y + CIN). -/
def execZsub (s : State) : Answer := writeR (s.nodes.z - xyc s) s

/-- ARITH.RSVD (R225): a reserved ALUMODE in arithmetic mode yields 0. -/
def execArithRsvd (_alumode : BitVec 4) (s : State) : Answer := writeR 0 s

/-! ### Two-input logic mode: functions of X and Z only (R226)

Each code has the function that its cell of `LOGIC_TABLE` gives it (R227, R246); the docstring names the one of the
reference table, after which the row is called. -/

/-- XOR.y0.a4 (R228): cell (0, 4) of the table, under the reference table X ^ Z. -/
def execXorY0A4 (s : State) : Answer := writeR (tableLogic s 0 4) s

/-- XNOR.y0.a5 (R229): cell (0, 5) of the table, under the reference table ~(X ^ Z). -/
def execXnorY0A5 (s : State) : Answer := writeR (tableLogic s 0 5) s

/-- XNOR.y0.a6 (R230): cell (0, 6) of the table, under the reference table ~(X ^ Z). -/
def execXnorY0A6 (s : State) : Answer := writeR (tableLogic s 0 6) s

/-- XOR.y0.a7 (R231): cell (0, 7) of the table, under the reference table X ^ Z. -/
def execXorY0A7 (s : State) : Answer := writeR (tableLogic s 0 7) s

/-- AND.y0.a12 (R232): cell (0, 12) of the table, under the reference table X & Z. -/
def execAndY0A12 (s : State) : Answer := writeR (tableLogic s 0 12) s

/-- ANDN.y0.a13 (R233): cell (0, 13) of the table, under the reference table X & ~Z. -/
def execAndnY0A13 (s : State) : Answer := writeR (tableLogic s 0 13) s

/-- NAND.y0.a14 (R234): cell (0, 14) of the table, under the reference table ~(X & Z). -/
def execNandY0A14 (s : State) : Answer := writeR (tableLogic s 0 14) s

/-- ORNX.y0.a15 (R235): cell (0, 15) of the table, under the reference table (~X) | Z. -/
def execOrnxY0A15 (s : State) : Answer := writeR (tableLogic s 0 15) s

/-- XNOR.y2.a4 (R236): cell (2, 4) of the table, under the reference table ~(X ^ Z). -/
def execXnorY2A4 (s : State) : Answer := writeR (tableLogic s 2 4) s

/-- XOR.y2.a5 (R237): cell (2, 5) of the table, under the reference table X ^ Z. -/
def execXorY2A5 (s : State) : Answer := writeR (tableLogic s 2 5) s

/-- XOR.y2.a6 (R238): cell (2, 6) of the table, under the reference table X ^ Z. -/
def execXorY2A6 (s : State) : Answer := writeR (tableLogic s 2 6) s

/-- XNOR.y2.a7 (R239): cell (2, 7) of the table, under the reference table ~(X ^ Z). -/
def execXnorY2A7 (s : State) : Answer := writeR (tableLogic s 2 7) s

/-- OR.y2.a12 (R240): cell (2, 12) of the table, under the reference table X | Z. -/
def execOrY2A12 (s : State) : Answer := writeR (tableLogic s 2 12) s

/-- ORN.y2.a13 (R241): cell (2, 13) of the table, under the reference table X | ~Z. -/
def execOrnY2A13 (s : State) : Answer := writeR (tableLogic s 2 13) s

/-- NOR.y2.a14 (R242): cell (2, 14) of the table, under the reference table ~(X | Z). -/
def execNorY2A14 (s : State) : Answer := writeR (tableLogic s 2 14) s

/-- ANDNX.y2.a15 (R243): cell (2, 15) of the table, under the reference table (~X) & Z. -/
def execAndnxY2A15 (s : State) : Answer := writeR (tableLogic s 2 15) s

/-- LOGIC.RSVD (R244): a code without a row of its own, reserved under the reference table, so that it yields 0; another table
may define it. -/
def execLogicRsvd (code : LogicCode) (s : State) : Answer := writeR (tableLogic s code.ysel code.alumode) s

end Sys2Proof.Machine
end

