-- ==== Sys2Proof/Machine/Carry.lean ====
section
/-! DEFINITION. The meanings of the carry select (spec/42_carry_select.md). Each writes the node `CIN`, a single bit, and
nothing else. -/

namespace Sys2Proof.Machine

/-- `CIN <- b`. -/
def writeCin (b : BitVec 1) (s : State) : Answer := .next (s.withNodes { s.nodes with cin := b })

/-- CIN.CARRYIN (R200): the direct carry-in bit. -/
def execCinCarryin (carryin : BitVec 1) (s : State) : Answer := writeCin carryin s

/-- CIN.NPCIN47 (R201): inverted bit 47 of the cascade-in. -/
def execCinNpcin47 (s : State) : Answer := writeCin (~~~(pcin47 s)) s

/-- CIN.CARRYCASCIN (R202): the cascade carry-in bit. -/
def execCinCarrycascin (carrycascin : BitVec 1) (s : State) : Answer := writeCin carrycascin s

/-- CIN.PCIN47 (R203): bit 47 of the cascade-in. -/
def execCinPcin47 (s : State) : Answer := writeCin (pcin47 s) s

/-- CIN.CCOFB (R204): the cascade carry-out bit. -/
def execCinCcofb (s : State) : Answer := writeCin s.ports.ccofb s

/-- CIN.NP47 (R205): inverted bit 47 of the prior result. -/
def execCinNp47 (s : State) : Answer := writeCin (~~~(pfb47 s)) s

/-- CIN.A24XB17 (R206): the XOR of bit 24 of the selected A and bit 17 of the selected B. -/
def execCinA24xb17 (s : State) : Answer := writeCin (asel24 s ^^^ bsel17 s) s

/-- CIN.P47 (R207): bit 47 of the prior result. -/
def execCinP47 (s : State) : Answer := writeCin (pfb47 s) s

end Sys2Proof.Machine
end

