-- ==== Sys2Proof/Machine/TileStep.lean ====
section
/-! DEFINITION. The meaning of STEP: one lane, one cycle (spec/45_tile_step.md). -/

namespace Sys2Proof.Machine

/-- The operands of one STEP of a lane (R286, R126). -/
structure LaneInput where
  iv     : Bool
  a      : F32
  b      : F32
  addend : F32
deriving DecidableEq, Repr, Inhabited

/-- The MUL line's input: the product with its validity (R287), and the addend where it travels along (R288). -/
def mulEntry (p : Params) (x : LaneInput) : MulSlot where
  d := fmul p x.a x.b
  addend := match p.addendAlign with | .atAddInput => F32.posZero | .withProduct => x.addend
  v := x.iv

/-- The addend that meets the product leaving the MUL line: this STEP's, or the product's own (R288). -/
def meetingAddend (p : Params) (x : LaneInput) (mo : MulSlot) : F32 :=
  match p.addendAlign with
  | .atAddInput => x.addend
  | .withProduct => mo.addend

/-- The round stage's input (R291): the enable gates the function, not the delay. -/
def roundStage (p : Params) (cfg : Cfg) (v : F32) : F32 := if cfg.roundEn then roundFn p.roundFn v else v

/-- The saturate stage's input (R292). -/
def satStage (cfg : Cfg) (v : F32) : F32 := if cfg.satEn then sat32 v else v

/-- One cycle of one lane (R286 to R292): the five pushes in stage order, each fed by the one before it in the same STEP,
and the accumulation where the add stage's output is valid. The answer is the lane after and the pair that leaves the SAT
line (R295). -/
def laneStep (p : Params) (cfg : Cfg) (x : LaneInput) (l : Lane) : Lane × Slot :=
  let (mo, mulLine) := push l.mulLine (mulEntry p x)
  let (ao, addLine) := push l.addLine ⟨fadd p mo.d (meetingAddend p x mo), mo.v⟩
  let acc := if ao.v then fadd p l.acc ao.d else l.acc
  let cnt := if ao.v then min (l.cnt + 1) p.cntMax else l.cnt
  let (co, accLine) := push l.accLine ⟨acc, ao.v⟩
  let (ro, rndLine) := push l.rndLine ⟨roundStage p cfg co.d, co.v⟩
  let (so, satLine) := push l.satLine ⟨satStage cfg ro.d, ro.v⟩
  (⟨acc, cnt, mulLine, addLine, accLine, rndLine, satLine⟩, so)

/-- One cycle of lane (r, c) of a tile (R286, R293): that lane and `cycle` change, nothing else does (R45). -/
def tileStep (p : Params) (r c : Nat) (x : LaneInput) (t : Tile) : Tile × Slot :=
  let (l, out) := laneStep p t.cfg x (t.lane r c)
  ({ t.withLane r c l with cycle := t.cycle + 1 }, out)

/-- STEP's operands on the command port. -/
def Args.laneInput (g : Args) : LaneInput := ⟨g.inputValid, g.a, g.b, g.addend⟩

/-- STEP (R286): BOUNDS where the coordinate is out of range, with nothing changed (R294); else one cycle of the lane. -/
def execStep (s : State) : Answer :=
  match s.tile with
  | none => .refused .unallocated
  | some t =>
    if t.rows ≤ s.args.row ∨ t.cols ≤ s.args.col then .next (returnErr s .bounds)
    else
      let (t', out) := tileStep s.params s.args.row s.args.col s.args.laneInput t
      .next (returnOut (s.withTile (some t')) out)

end Sys2Proof.Machine
end

