-- ==== Sys2Proof/Machine/Gemm.lean ====
section
/-! DEFINITION. The meaning of GEMM: the sequencer that drives STEP over a tile, reads the operand arrays and writes the
destination (spec/46_tile_gemm.md; spec/20_memory.md). One command is one transition (R408, D11). -/

namespace Sys2Proof.Machine

/-! ### The order of the taps (R323) -/

/-- One pass over the grid in row-major order. -/
def gridPass (phase : SeqPhase) (n rows cols : Nat) : List SeqPos :=
  (List.range rows).flatMap fun i => (List.range cols).map fun j => ⟨phase, n, i, j⟩

/-- The main phase: depth, then row, then column (R323). -/
def mainTaps (rows cols depth : Nat) : List SeqPos :=
  (List.range depth).flatMap fun k => gridPass .main k rows cols

/-- The drain: L + 1 passes of bubbles (R327). -/
def drainTaps (rows cols lat : Nat) : List SeqPos :=
  (List.range (lat + 1)).flatMap fun d => gridPass .drain d rows cols

/-- Every tap of one GEMM, in order. -/
def gemmTaps (rows cols depth lat : Nat) : List SeqPos := mainTaps rows cols depth ++ drainTaps rows cols lat

/-! ### The arrays of one GEMM -/

/-- The four spaces and strides that the caller hands to one GEMM (R82), the bias optional. -/
structure GemmArrays where
  lhs  : ArrayRef
  rhs  : ArrayRef
  bias : Option ArrayRef
  dst  : ArrayRef
  lda  : Nat
  ldb  : Nat
  ldd  : Nat
deriving DecidableEq, Repr, Inhabited

/-- The arrays on the command port; none where LHS, RHS or DST is absent. -/
def Args.gemmArrays (g : Args) : Option GemmArrays :=
  match g.lhs, g.rhs, g.dst with
  | some lhs, some rhs, some dst => some ⟨lhs, rhs, g.bias, dst, g.lda, g.ldb, g.ldd⟩
  | _, _, _ => none

/-- An array of `len` elements holds every index i·stride + c with i < rows, c < cols (R85). -/
def covers (r : ArrayRef) (rows cols stride : Nat) : Bool := decide ((rows - 1) * stride + cols ≤ r.len)

/-- Every array holds the indices that R85 lists for it. -/
def longEnough (g : GemmArrays) (t : Tile) : Bool :=
  covers g.lhs t.rows t.depth g.lda && covers g.rhs t.depth t.cols g.ldb && covers g.dst t.rows t.cols g.ldd
    && (match g.bias with | some b => covers b 1 t.cols 0 | none => true)

/-- An element of the platform's memory lies in an array. -/
def ArrayRef.holds (r : ArrayRef) (e : Nat) : Bool := decide (r.base ≤ e) && decide (e < r.base + r.len)

/-- Some element of DST's index set lies in an input array (R88). -/
def overlaps (g : GemmArrays) (t : Tile) : Bool :=
  (gridPass .main 0 t.rows t.cols).any fun q =>
    let e := g.dst.base + (q.i * g.ldd + q.j)
    g.lhs.holds e || g.rhs.holds e || (match g.bias with | some b => b.holds e | none => false)

/-- A stride is smaller than its dimension (R321). -/
def strideTooSmall (g : GemmArrays) (t : Tile) : Bool :=
  decide (g.lda < t.depth) || decide (g.ldb < t.cols) || decide (g.ldd < t.cols)

/-! ### One tap -/

/-- The operands of a tap's STEP: in the main phase the elements (i, k) and (k, j) and, at k = 0 only, the bias of column
j (R324, R325); in the drain a bubble of +0.0 (R327). -/
def tapInput (m : Memory) (g : GemmArrays) (q : SeqPos) : LaneInput :=
  match q.phase with
  | .main =>
    { iv := true
      a := memRead m g.lhs (q.i * g.lda + q.n)
      b := memRead m g.rhs (q.n * g.ldb + q.j)
      addend :=
        match g.bias with
        | some b => if q.n = 0 then memRead m b q.j else F32.posZero
        | none => F32.posZero }
  | .drain => ⟨false, F32.posZero, F32.posZero, F32.posZero⟩

/-- The latch of the sequencer; empty outside a GEMM. -/
def Tile.latch (t : Tile) : List (Option F32) :=
  match t.seq with
  | some q => q.latch
  | none => []

/-- One tap (R326, R328): the sequencer stands at `q`, the lane is stepped, and a valid output is latched. The STEP cannot
fail, since `q` lies in the grid by construction (R326). -/
def gemmTap (p : Params) (m : Memory) (g : GemmArrays) (t : Tile) (q : SeqPos) : Tile :=
  let (t', out) := tileStep p q.i q.j (tapInput m g q) t
  let latch := if out.v then t.latch.set (q.i * t.cols + q.j) (some out.d) else t.latch
  { t' with seq := some ⟨q, latch⟩ }

/-- The tile at the first tap (R55, R322): as after RESET, the sequencer at (MAIN, 0, 0, 0), every `seen` 0. -/
def gemmStart (t : Tile) : Tile :=
  { t.cleared with seq := some ⟨⟨.main, 0, 0, 0⟩, List.replicate (t.rows * t.cols) none⟩ }

/-- The tile after the last drain STEP, with the sequencer still standing. -/
def gemmRun (p : Params) (m : Memory) (g : GemmArrays) (t : Tile) : Tile :=
  (gemmTaps t.rows t.cols t.depth t.cfg.totalLat).foldl (gemmTap p m g) (gemmStart t)

/-- The value written for lane (i, j): its last valid output; unspecified where it never had one (R329, U5). -/
def lastOutput (t : Tile) (i j : Nat) : F32 :=
  match t.latch.getD (i * t.cols + j) none with
  | some v => v
  | none => Config.unseenLast i j

/-- The write-back (R329): row-major, after the last drain STEP. -/
def writeBack (g : GemmArrays) (t : Tile) (m : Memory) : Memory :=
  (gridPass .main 0 t.rows t.cols).foldl
    (fun m q => memWrite m g.dst (q.i * g.ldd + q.j) (lastOutput t q.i q.j)) m

/-- GEMM (R320). The refusals come first (R361), then the stride check (R321), before the reset and before any memory
access; the sequencer's state is gone at the end (R48). -/
def execGemm (s : State) : Answer :=
  match s.tile with
  | none => .refused .unallocated
  | some t =>
    match s.args.gemmArrays with
    | none => .refused .arrayAbsent
    | some g =>
      if longEnough g t = false then .refused .arrayTooShort
      else if overlaps g t = true then .refused .arrayOverlap
      else if strideTooSmall g t = true then .next (returnErr s .bounds)
      else
        let t' := gemmRun s.params s.mem g t
        .next (returnOk ((s.withTile (some { t' with seq := none })).withMem (writeBack g t' s.mem)))

end Sys2Proof.Machine
end

