-- ==== Sys2Proof/Machine/Lifecycle.lean ====
section
/-! DEFINITION. The meanings of INIT, RESET, FREE and of the reserved command codes (spec/44_tile_lifecycle.md;
spec/30_encoding.md R128). A refusal comes before every other check (R361). -/

namespace Sys2Proof.Machine

/-- INIT (R260): on an UNALLOCATED handle and the FP32 kind, CONFIG where a dimension is zero, else ALLOC where the
allocation fails, else a LIVE tile in the reset state (R53). A failing INIT leaves nothing (R262). -/
def execInit (s : State) : Answer :=
  match s.tile with
  | some _ => .refused .initOnLive
  | none =>
    if s.args.fmt.kind ≠ .fp32 then .refused .unsupportedFormat
    else if s.args.rows = 0 ∨ s.args.cols = 0 ∨ s.args.depth = 0 then .next (returnErr s .config)
    else if s.args.allocOk = false then .next (returnErr s .alloc)
    else .next (returnOk (s.withTile (some (Tile.fresh s.args.cfg s.args.fmt s.args.rows s.args.cols s.args.depth))))

/-- RESET (R263): every lane cleared, `cycle` zero; it cannot fail. -/
def execReset (s : State) : Answer :=
  match s.tile with
  | none => .refused .unallocated
  | some t => .next (returnOk (s.withTile (some t.cleared)))

/-- FREE (R265): the handle is UNALLOCATED, whatever it was; no status. -/
def execFree (s : State) : Answer := .next (returnNone (s.withTile none))

/-- The reserved command code 5 (R128, U8): no meaning from the document, refused. -/
def execCmdRsvd5 (_s : State) : Answer := .refused .reservedCommand

/-- The reserved command code 6 (R128, U8). -/
def execCmdRsvd6 (_s : State) : Answer := .refused .reservedCommand

/-- The reserved command code 7 (R128, U8). -/
def execCmdRsvd7 (_s : State) : Answer := .refused .reservedCommand

end Sys2Proof.Machine
end

