-- ==== Sys2Proof/Machine/Mux.lean ====
section
/-! DEFINITION. The meanings of the second-stage operand muxes X, Y, Z (spec/41_opmode_muxes.md). Each writes its node and
nothing else; a reserved or "illegal" selection yields its fallback on the mux output (R120, R356). -/

namespace Sys2Proof.Machine

/-- `X <- v`. -/
def writeX (v : Int) (s : State) : Answer := .next (s.withNodes { s.nodes with x := v })

/-- `Y <- v`. -/
def writeY (v : Int) (s : State) : Answer := .next (s.withNodes { s.nodes with y := v })

/-- `Z <- v`. -/
def writeZ (v : Int) (s : State) : Answer := .next (s.withNodes { s.nodes with z := v })

/-- XMUX.ZERO (R170). -/
def execXmuxZero (s : State) : Answer := writeX 0 s

/-- XMUX.M (R171): the multiplier result. -/
def execXmuxM (s : State) : Answer := writeX s.nodes.m s

/-- XMUX.M_ILL (R172): the multiplier selected on X without Y falls back to 0. -/
def execXmuxMIll (_ysel : BitVec 2) (s : State) : Answer := writeX 0 s

/-- XMUX.P (R173): the accumulator feedback. -/
def execXmuxP (s : State) : Answer := writeX (pfbs s) s

/-- XMUX.AB (R174): the concatenation A:B. -/
def execXmuxAb (s : State) : Answer := writeX (ab s) s

/-- YMUX.ZERO (R175). -/
def execYmuxZero (s : State) : Answer := writeY 0 s

/-- YMUX.M (R176): the multiplier result under `MULT_SPLIT` = `DUP`, 0 under `SUM`. -/
def execYmuxM (s : State) : Answer :=
  writeY (match s.params.multSplit with | .dup => s.nodes.m | .sum => 0) s

/-- YMUX.M_ILL (R177): the multiplier selected on Y without X falls back to 0. -/
def execYmuxMIll (_xsel : BitVec 2) (s : State) : Answer := writeY 0 s

/-- YMUX.ONES (R178): all 48 bits set. -/
def execYmuxOnes (s : State) : Answer := writeY allOnes s

/-- YMUX.C (R179): the C operand. -/
def execYmuxC (s : State) : Answer := writeY (cs s) s

/-- ZMUX.ZERO (R180). -/
def execZmuxZero (s : State) : Answer := writeZ 0 s

/-- ZMUX.PCIN (R181): the cascade-in. -/
def execZmuxPcin (s : State) : Answer := writeZ (pcins s) s

/-- ZMUX.P (R182): the accumulator feedback. -/
def execZmuxP (s : State) : Answer := writeZ (pfbs s) s

/-- ZMUX.C (R183): the C operand. -/
def execZmuxC (s : State) : Answer := writeZ (cs s) s

/-- ZMUX.PCOND (R184): the accumulator feedback where `Z4_COND(XSEL, YSEL)` holds, else 0. -/
def execZmuxPcond (xsel ysel : BitVec 2) (s : State) : Answer :=
  writeZ (if z4Enabled s.params xsel ysel then pfbs s else 0) s

/-- ZMUX.PCIN17 (R185): the cascade-in shifted left 17. -/
def execZmuxPcin17 (s : State) : Answer := writeZ (shl17 (pcins s)) s

/-- ZMUX.P17 (R186): the accumulator feedback shifted left 17. -/
def execZmuxP17 (s : State) : Answer := writeZ (shl17 (pfbs s)) s

/-- ZMUX.RSVD (R187): reserved, 0. -/
def execZmuxRsvd (s : State) : Answer := writeZ 0 s

end Sys2Proof.Machine
end

