-- ==== Sys2Proof/Machine/Dispatch.lean ====
section
/-! DEFINITION. The dispatch of an instruction to its meaning, one arm per constructor. -/

namespace Sys2Proof.Machine

def exec (i : Instr) (s : State) : Host.Outcome State Fault Refusal :=
  match i with
  | .aselC2 => Sys2Proof.Machine.execAselC2 s
  | .aselC1 => Sys2Proof.Machine.execAselC1 s
  | .aselZero cap1 => Sys2Proof.Machine.execAselZero cap1 s
  | .bselC2 => Sys2Proof.Machine.execBselC2 s
  | .bselC1 => Sys2Proof.Machine.execBselC1 s
  | .dgateOff => Sys2Proof.Machine.execDgateOff s
  | .dgateOn => Sys2Proof.Machine.execDgateOn s
  | .preaddAdd => Sys2Proof.Machine.execPreaddAdd s
  | .preaddSub => Sys2Proof.Machine.execPreaddSub s
  | .mult => Sys2Proof.Machine.execMult s
  | .xmuxZero => Sys2Proof.Machine.execXmuxZero s
  | .xmuxM => Sys2Proof.Machine.execXmuxM s
  | .xmuxMIll ysel => Sys2Proof.Machine.execXmuxMIll ysel s
  | .xmuxP => Sys2Proof.Machine.execXmuxP s
  | .xmuxAb => Sys2Proof.Machine.execXmuxAb s
  | .ymuxZero => Sys2Proof.Machine.execYmuxZero s
  | .ymuxM => Sys2Proof.Machine.execYmuxM s
  | .ymuxMIll xsel => Sys2Proof.Machine.execYmuxMIll xsel s
  | .ymuxOnes => Sys2Proof.Machine.execYmuxOnes s
  | .ymuxC => Sys2Proof.Machine.execYmuxC s
  | .zmuxZero => Sys2Proof.Machine.execZmuxZero s
  | .zmuxPcin => Sys2Proof.Machine.execZmuxPcin s
  | .zmuxP => Sys2Proof.Machine.execZmuxP s
  | .zmuxC => Sys2Proof.Machine.execZmuxC s
  | .zmuxPcond xsel ysel => Sys2Proof.Machine.execZmuxPcond xsel ysel s
  | .zmuxPcin17 => Sys2Proof.Machine.execZmuxPcin17 s
  | .zmuxP17 => Sys2Proof.Machine.execZmuxP17 s
  | .zmuxRsvd => Sys2Proof.Machine.execZmuxRsvd s
  | .cinCarryin carryin => Sys2Proof.Machine.execCinCarryin carryin s
  | .cinNpcin47 => Sys2Proof.Machine.execCinNpcin47 s
  | .cinCarrycascin carrycascin => Sys2Proof.Machine.execCinCarrycascin carrycascin s
  | .cinPcin47 => Sys2Proof.Machine.execCinPcin47 s
  | .cinCcofb => Sys2Proof.Machine.execCinCcofb s
  | .cinNp47 => Sys2Proof.Machine.execCinNp47 s
  | .cinA24xb17 => Sys2Proof.Machine.execCinA24xb17 s
  | .cinP47 => Sys2Proof.Machine.execCinP47 s
  | .add3 => Sys2Proof.Machine.execAdd3 s
  | .add3Nz => Sys2Proof.Machine.execAdd3Nz s
  | .notAdd3 => Sys2Proof.Machine.execNotAdd3 s
  | .zsub => Sys2Proof.Machine.execZsub s
  | .arithRsvd alumode => Sys2Proof.Machine.execArithRsvd alumode s
  | .xorY0A4 => Sys2Proof.Machine.execXorY0A4 s
  | .xnorY0A5 => Sys2Proof.Machine.execXnorY0A5 s
  | .xnorY0A6 => Sys2Proof.Machine.execXnorY0A6 s
  | .xorY0A7 => Sys2Proof.Machine.execXorY0A7 s
  | .andY0A12 => Sys2Proof.Machine.execAndY0A12 s
  | .andnY0A13 => Sys2Proof.Machine.execAndnY0A13 s
  | .nandY0A14 => Sys2Proof.Machine.execNandY0A14 s
  | .ornxY0A15 => Sys2Proof.Machine.execOrnxY0A15 s
  | .xnorY2A4 => Sys2Proof.Machine.execXnorY2A4 s
  | .xorY2A5 => Sys2Proof.Machine.execXorY2A5 s
  | .xorY2A6 => Sys2Proof.Machine.execXorY2A6 s
  | .xnorY2A7 => Sys2Proof.Machine.execXnorY2A7 s
  | .orY2A12 => Sys2Proof.Machine.execOrY2A12 s
  | .ornY2A13 => Sys2Proof.Machine.execOrnY2A13 s
  | .norY2A14 => Sys2Proof.Machine.execNorY2A14 s
  | .andnxY2A15 => Sys2Proof.Machine.execAndnxY2A15 s
  | .logicRsvd code => Sys2Proof.Machine.execLogicRsvd code s
  | .init => Sys2Proof.Machine.execInit s
  | .reset => Sys2Proof.Machine.execReset s
  | .free => Sys2Proof.Machine.execFree s
  | .step => Sys2Proof.Machine.execStep s
  | .gemm => Sys2Proof.Machine.execGemm s
  | .cmdRsvd5 => Sys2Proof.Machine.execCmdRsvd5 s
  | .cmdRsvd6 => Sys2Proof.Machine.execCmdRsvd6 s
  | .cmdRsvd7 => Sys2Proof.Machine.execCmdRsvd7 s

end Sys2Proof.Machine
end

