-- ==== Sys2Proof/Machine/Step.lean ====
section
/-! DEFINITION. The step of the machine, and the placing of one instruction where the next step decodes it. -/

namespace Sys2Proof.Machine

/-- One step: the caller's next request reaches the ports if nothing is in progress; what stands there is decoded and
executed; then the evaluation moves to its next class, or the command is done. With nothing asked for, nothing changes
(R371). -/
def step (s : State) : Host.Outcome State Fault Refusal :=
  match fetch (present s) with
  | none => .next (present s)
  | some e =>
    match exec (decode e) (present s) with
    | .next t => .next (advance t)
    | .fault r => .fault r
    | .refused r => .refused r

/-- The state with the instruction of one opcode-table row placed where the next step decodes it: a command code on the
command port with the operands that stand there, or a control word on the control inputs, the evaluation standing at the
class of the micro-operation that `decodeTableWord` reads. -/
def State.withFetchWord (s : State) (nbits w : Nat) : State :=
  if nbits ≤ 8 then { s with activity := .commanded (BitVec.ofNat 3 w) }
  else
    let cw := BitVec.ofNat 21 w
    { s with
      ctl := Control.unpack cw
      activity := .evaluating ((decodeMostSpecific cw).opClass.getD .asel) }

end Sys2Proof.Machine
end

