-- ==== Sys2Proof/Machine/Observe.lean ====
section
/-! DEFINITION. What the caller can read without side effect (spec/10_state.md R47, R49): the observation ports of a tile, and
the phase of a lane, which is an observation of the lane's history and no state. No command depends on any of them. -/

namespace Sys2Proof.Machine

/-- The lane (r, c) of a LIVE tile, for a coordinate in range (R49). -/
def observeLane (s : State) (r c : Nat) : Option Lane :=
  match s.tile with
  | some t => if r < t.rows ∧ c < t.cols then some (t.lane r c) else none
  | none => none

/-- `acc[r][c]` (R49). -/
def observeAcc (s : State) (r c : Nat) : Option F32 := (observeLane s r c).map Lane.acc

/-- `cnt[r][c]` (R49). -/
def observeCnt (s : State) (r c : Nat) : Option Nat := (observeLane s r c).map Lane.cnt

/-- The five stages (R43). -/
inductive Stage where
  | mul | add | acc | rnd | sat
deriving DecidableEq, Repr, Inhabited

/-- The slots of one stage's line, newest first, as pairs of data and validity. -/
def Lane.line (l : Lane) (st : Stage) : List Slot :=
  match st with
  | .mul => l.mulLine.map fun m => ⟨m.d, m.v⟩
  | .add => l.addLine
  | .acc => l.accLine
  | .rnd => l.rndLine
  | .sat => l.satLine

/-- Slot k of stage S of lane (r, c): `line[S][r][c].d[k]` and `.v[k]` (R49). -/
def observeSlot (s : State) (st : Stage) (r c k : Nat) : Option Slot :=
  (observeLane s r c).bind fun l => (l.line st)[k]?

/-- `cycle` (R49). -/
def observeCycle (s : State) : Option Nat := s.tile.map Tile.cycle

/-- `R`, `C`, `K` and `cfg` (R49). -/
def observeShape (s : State) : Option (Nat × Nat × Nat × Cfg) := s.tile.map fun t => (t.rows, t.cols, t.depth, t.cfg)

/-- The phase of a lane (R47). -/
inductive LanePhase where
  | idle | filling | valid
deriving DecidableEq, Repr, Inhabited

/-- The phase of a lane from its history since the last RESET or INIT (R47): for each STEP on it, oldest first,
`input_valid` and `out_valid`. Machine/History.lean builds the history from a run. -/
def lanePhase (history : List (Bool × Bool)) : LanePhase :=
  if history.all (fun h => h.1 == false) then .idle
  else
    match history.getLast? with
    | some h => if h.2 then .valid else .filling
    | none => .idle

end Sys2Proof.Machine
end

