-- ==== Sys2Proof/Machine/History.lean ====
section
/-! DEFINITION. Histories: the event history of one GEMM (spec/20_memory.md R90, R91, R96) and the history of one lane over a
run (spec/10_state.md R47), from which its phase is read. No command depends on them. -/

namespace Sys2Proof.Machine

/-! ### The event history of one GEMM (R96) -/

/-- The spaces that a GEMM reads (R82). -/
inductive ReadSpace where
  | lhs | rhs | bias
deriving DecidableEq, Repr, Inhabited

/-- One event of a GEMM: a read of an element of an input array, a STEP of a lane with its operands and its output, or a
write of an element of DST. -/
inductive GemmEvent where
  | read (space : ReadSpace) (idx : Nat) (v : F32)
  | step (row col : Nat) (x : LaneInput) (out : Slot)
  | write (idx : Nat) (v : F32)
deriving DecidableEq, Repr, Inhabited

/-- The reads of one tap, issued with its STEP (R91, R324, R325): LHS, RHS, and BIAS at k = 0 where a bias is given; none in
the drain. -/
def tapReads (m : Memory) (g : GemmArrays) (q : SeqPos) : List GemmEvent :=
  match q.phase with
  | .main =>
    [.read .lhs (q.i * g.lda + q.n) (memRead m g.lhs (q.i * g.lda + q.n)),
      .read .rhs (q.n * g.ldb + q.j) (memRead m g.rhs (q.n * g.ldb + q.j))]
      ++ (match g.bias with
          | some b => if q.n = 0 then [.read .bias q.j (memRead m b q.j)] else []
          | none => [])
  | .drain => []

/-- The events of a run of taps: of each tap its reads and then its STEP. -/
def tapEvents (p : Params) (m : Memory) (g : GemmArrays) : List SeqPos → Tile → List GemmEvent
  | [], _ => []
  | q :: qs, t =>
    tapReads m g q
      ++ .step q.i q.j (tapInput m g q) (tileStep p q.i q.j (tapInput m g q) t).2
      :: tapEvents p m g qs (gemmTap p m g t q)

/-- The writes after the last drain STEP, row-major (R91, R329). -/
def writeEvents (g : GemmArrays) (t : Tile) : List GemmEvent :=
  (gridPass .main 0 t.rows t.cols).map fun q => .write (q.i * g.ldd + q.j) (lastOutput t q.i q.j)

/-- All events of a GEMM that passes its checks, in one total order (R96). -/
def gemmEvents (p : Params) (m : Memory) (g : GemmArrays) (t : Tile) : List GemmEvent :=
  tapEvents p m g (gemmTaps t.rows t.cols t.depth t.cfg.totalLat) (gemmStart t) ++ writeEvents g (gemmRun p m g t)

/-- The event history of GEMM from a state: that of R96 where it completes with OK; none where it fails or is refused, since
the checks reach no memory (R91, R321). -/
def gemmHistory (s : State) : List GemmEvent :=
  match exec .gemm s with
  | .next u =>
    if u.result.status = some .ok then
      match s.tile, s.args.gemmArrays with
      | some t, some g => gemmEvents s.params s.mem g t
      | _, _ => []
    else []
  | .fault _ => []
  | .refused _ => []

/-- What one event does to the memory and the tile: a read nothing, a STEP its lane, a write its element of DST. -/
def GemmEvent.apply (p : Params) (g : GemmArrays) (mt : Memory × Tile) (e : GemmEvent) : Memory × Tile :=
  match e with
  | .read _ _ _ => mt
  | .step r c x _ => (mt.1, (tileStep p r c x mt.2).1)
  | .write idx v => (memWrite mt.1 g.dst idx v, mt.2)

/-! ### The history of one lane over a run (R47) -/

/-- A lane's history since the last RESET or INIT: of each STEP on it, oldest first, `input_valid` and `out_valid`. -/
abbrev LaneHistory := List (Bool × Bool)

/-- What one event of a GEMM adds to the history of lane (r, c). -/
def GemmEvent.onLane (r c : Nat) (e : GemmEvent) : Option (Bool × Bool) :=
  match e with
  | .step i j x out => if i = r ∧ j = c then some (x.iv, out.v) else none
  | .read _ _ _ => none
  | .write _ _ => none

/-- The history of lane (r, c) after a command that has returned, taken at `s` and ending at `u`: empty after a successful INIT,
a RESET and a FREE; longer by one entry after a STEP that succeeds on this lane; that of GEMM's own STEPs after a successful
GEMM, which begins with a reset (R322); else as before. -/
def commandHistory (r c : Nat) (i : Instr) (s u : State) (h : LaneHistory) : LaneHistory :=
  match i, u.result.status, u.result.out with
  | .init, some .ok, _ => []
  | .reset, _, _ => []
  | .free, _, _ => []
  | .step, some .ok, some out => if s.args.row = r ∧ s.args.col = c then h ++ [(s.args.inputValid, out.v)] else h
  | .gemm, some .ok, _ => (gemmHistory s).filterMap (GemmEvent.onLane r c)
  | _, _, _ => h

/-- The history of lane (r, c) after one step of the machine at `s`: only a command can change it. -/
def stepHistory (r c : Nat) (s : State) (h : LaneHistory) : LaneHistory :=
  match (present s).activity with
  | .commanded code =>
    match exec (decode (.command code)) (present s) with
    | .next u => commandHistory r c (decode (.command code)) (present s) u h
    | .fault _ => h
    | .refused _ => h
  | .evaluating _ => h
  | .idle => h

/-- The history of lane (r, c) after `n` steps of the machine from `s`, where it was `h`; it ends at a refusal. -/
def runHistory (r c : Nat) : Nat → State → LaneHistory → LaneHistory
  | 0, _, h => h
  | n + 1, s, h =>
    match step s with
    | .next t => runHistory r c n t (stepHistory r c s h)
    | .fault _ => h
    | .refused _ => h

/-- `phase(r, c)` after `n` steps of the machine from a state whose handle is UNALLOCATED, as after reset (R47). -/
def phaseAfter (r c n : Nat) (s : State) : LanePhase := lanePhase (runHistory r c n s [])

end Sys2Proof.Machine
end

