-- ==== Sys2Proof/Machine/Reference.lean ====
section
/-! DEFINITION. The collected rules as closed functions, for statements only: the machine never calls them. They are
written over integers from the rules' own text, without the meanings and without the decoder (spec/40_operand_select.md R162;
spec/41_opmode_muxes.md R188; spec/42_carry_select.md R208; spec/43_alu.md R227, R246; spec/45_tile_step.md R280, R286,
R297; spec/46_tile_gemm.md R323, R331; spec/20_memory.md R96;
spec/00_scope.md R18). -/

namespace Sys2Proof.Machine

/-! ### The slice as one function of its inputs (R37) -/

/-- `ASEL` (R162). -/
def refAsel (v : Supplied) (k : Control) : Int :=
  if k.inmode.getLsbD 1 then 0 else if k.inmode.getLsbD 0 then sext 30 v.a1 else sext 30 v.a2

/-- `BSEL` (R162). -/
def refBsel (v : Supplied) (k : Control) : Int := if k.inmode.getLsbD 4 then sext 18 v.b1 else sext 18 v.b2

/-- `AD` (R162). -/
def refAd (v : Supplied) (k : Control) : Int :=
  let a25 := sext 25 (refAsel v k)
  let deff := if k.inmode.getLsbD 2 then sext 25 v.d else 0
  if k.inmode.getLsbD 3 then sext 25 (deff - a25) else sext 25 (deff + a25)

/-- `M` (R162). -/
def refM (v : Supplied) (k : Control) : Int := refAd v k * refBsel v k

/-- `AB` (R174). -/
def refAb (v : Supplied) (k : Control) : Int := sext 48 (zext 30 (refAsel v k) * 2 ^ 18 + zext 18 (refBsel v k))

/-- `X` (R188). -/
def refX (v : Supplied) (k : Control) : Int :=
  match (k.opmode.toNat % 4, k.opmode.toNat / 4 % 4) with
  | (0, _) => 0
  | (1, 1) => refM v k
  | (1, _) => 0
  | (2, _) => sext 48 v.pfb
  | (_, _) => refAb v k

/-- `Y` (R188). -/
def refY (p : Params) (v : Supplied) (k : Control) : Int :=
  match (k.opmode.toNat / 4 % 4, k.opmode.toNat % 4) with
  | (0, _) => 0
  | (1, 1) => (match p.multSplit with | .dup => refM v k | .sum => 0)
  | (1, _) => 0
  | (2, _) => -1
  | (_, _) => sext 48 v.c

/-- `Z` (R188). -/
def refZ (p : Params) (v : Supplied) (k : Control) : Int :=
  match k.opmode.toNat / 16 with
  | 0 => 0
  | 1 => sext 48 v.pcin
  | 2 => sext 48 v.pfb
  | 3 => sext 48 v.c
  | 4 =>
    if (BitVec.ofNat 2 (k.opmode.toNat % 4), BitVec.ofNat 2 (k.opmode.toNat / 4 % 4)) ∈ p.z4Cond then sext 48 v.pfb
    else 0
  | 5 => sext 48 v.pcin * 2 ^ 17
  | 6 => sext 48 v.pfb * 2 ^ 17
  | _ => 0

/-- Bit `i` of an integer, as 0 or 1. -/
def bitOf (v : Int) (i : Nat) : Int := v / 2 ^ i % 2

/-- `CIN` (R208). -/
def refCin (v : Supplied) (k : Control) : Int :=
  match k.carryinsel.toNat with
  | 0 => k.carryin.toNat
  | 1 => 1 - bitOf v.pcin 47
  | 2 => k.carrycascin.toNat
  | 3 => bitOf v.pcin 47
  | 4 => v.ccofb.toNat
  | 5 => 1 - bitOf v.pfb 47
  | 6 => if bitOf (refAsel v k) 24 = bitOf (refBsel v k) 17 then 0 else 1
  | _ => bitOf v.pfb 47

/-- `LOGIC_TABLE(YSEL, ALUMODE)(X, Z)` on 48-bit operands, 0 where the table does not define the code (R246 (e)): bit by
bit, the table's function of the two bits. -/
def refLogic (p : Params) (k : Control) (x z : BitVec 48) : BitVec 48 :=
  match lookupLogic p.logicTable ⟨k.opmode.extractLsb' 2 2, k.alumode⟩ with
  | some f => BitVec.ofFnLE fun n : Fin 48 => f.at (x.getLsbD n) (z.getLsbD n)
  | none => 0

/-- `P` (R246 (e)), as a 48-bit vector. -/
def refP (p : Params) (v : Supplied) (k : Control) : BitVec 48 :=
  let x := refX v k
  let y := refY p v k
  let z := refZ p v k
  let cin := refCin v k
  if k.opmode.getLsbD 2 then
    match k.alumode.toNat with
    | 0 => BitVec.ofInt 48 (x + y + z + cin)
    | 1 => BitVec.ofInt 48 (x + y + (-z - 1) + cin)
    | 2 => BitVec.ofInt 48 (-(x + y + z + cin) - 1)
    | 3 => BitVec.ofInt 48 (z - (x + y + cin))
    | _ => 0
  else refLogic p k (BitVec.ofInt 48 x) (BitVec.ofInt 48 z)

/-- What a bitwise micro-operation of the ALU answers (R226, R245): `R` is the integer whose every bit is `f` of the same
bits of `X` and `Z`, `P` its low 48 bits, and nothing else changes. -/
def AnswersBitwise (i : Instr) (f : Bool → Bool → Bool) (s : State) : Prop :=
  ∃ r : Int, (∀ n : Nat, r.testBit n = f (s.nodes.x.testBit n) (s.nodes.z.testBit n)) ∧
    exec i s = .next { s with nodes := { s.nodes with r := r }, p := BitVec.ofInt 48 r }

/-- The same for the micro-operation of the logic code `code`, by the machine's own `LOGIC_TABLE` (R227, R246 (e)): the
function of its cell, or 0 where the table does not define the code. -/
def AnswersCell (i : Instr) (code : LogicCode) (s : State) : Prop :=
  AnswersBitwise i (fun x z => match lookupLogic s.params.logicTable code with | some f => f.at x z | none => false) s

/-! ### STEP by the pseudocode -/

/-- `push` by slot numbers (R280): with no slot the input passes; else the oldest slot, number n − 1, leaves, every slot
moves one place back, and the input is slot 0. -/
def refPush [Inhabited α] (line : List α) (x : α) : α × List α :=
  if line.length = 0 then (x, [])
  else (line.getD (line.length - 1) default, (List.range line.length).map fun k => if k = 0 then x else line.getD (k - 1) default)

/-- Successive pushes into one line: what leaves it, and the line after. -/
def pushAll (line : List α) : List α → List α × List α
  | [] => ([], line)
  | x :: xs =>
    let first := push line x
    let more := pushAll first.2 xs
    (first.1 :: more.1, more.2)

/-- The pseudocode of STEP on one lane (R286). -/
def refLaneStep (p : Params) (cfg : Cfg) (x : LaneInput) (l : Lane) : Lane × Slot :=
  let mul := refPush l.mulLine
    ⟨fmul p x.a x.b, if p.addendAlign = .withProduct then x.addend else F32.posZero, x.iv⟩
  let addend := if p.addendAlign = .withProduct then mul.1.addend else x.addend
  let add := refPush l.addLine ⟨fadd p mul.1.d addend, mul.1.v⟩
  let acc := if add.1.v then fadd p l.acc add.1.d else l.acc
  let cnt := if add.1.v then min (l.cnt + 1) p.cntMax else l.cnt
  let accl := refPush l.accLine ⟨acc, add.1.v⟩
  let rnd := refPush l.rndLine ⟨if cfg.roundEn then roundFn p.roundFn accl.1.d else accl.1.d, accl.1.v⟩
  let sat := refPush l.satLine ⟨if cfg.satEn then sat32 rnd.1.d else rnd.1.d, rnd.1.v⟩
  ({ acc := acc, cnt := cnt, mulLine := mul.2, addLine := add.2, accLine := accl.2, rndLine := rnd.2, satLine := sat.2 },
    sat.1)

/-! ### The timing law (R297), in terms of the STEPs applied to one lane since a reset -/

/-- `post` (R297): what the outgoing copy of the accumulator goes through. -/
def postStages (p : Params) (cfg : Cfg) (v : F32) : F32 :=
  let r := if cfg.roundEn then roundFn p.roundFn v else v
  if cfg.satEn then sat32 r else r

/-- `input_valid` of the STEP `n` places before STEP `t`; 0 where there is none. -/
def validBefore (xs : List LaneInput) (n t : Nat) : Bool := if t < n then false else (xs.getD (t - n) default).iv

/-- `ao` at STEP `u` (R297), for u at least m + a: the product of STEP u − a − m and the addend of STEP u − a, or of the
product's own STEP under `WITH_PRODUCT`. -/
def contribution (p : Params) (cfg : Cfg) (xs : List LaneInput) (u : Nat) : F32 :=
  let own := xs.getD (u - cfg.latAdd - cfg.latMul) default
  let now := xs.getD (u - cfg.latAdd) default
  fadd p (fmul p own.a own.b) (if p.addendAlign = .withProduct then own.addend else now.addend)

/-- The accumulator after the first `n` STEPs (R297): the left-to-right fold, from +0.0, of `ao` over the STEPs whose add
stage's output is valid. -/
def accAfter (p : Params) (cfg : Cfg) (xs : List LaneInput) (n : Nat) : F32 :=
  (List.range n).foldl
    (fun acc u => if validBefore xs (cfg.latMul + cfg.latAdd) u then fadd p acc (contribution p cfg xs u) else acc)
    F32.posZero

/-! ### GEMM -/

/-- The sequencer's next-state function (R323); `none` is the write-back. -/
def seqNext (rows cols depth lat : Nat) (q : SeqPos) : Option SeqPos :=
  if q.j + 1 < cols then some { q with j := q.j + 1 }
  else if q.i + 1 < rows then some { q with i := q.i + 1, j := 0 }
  else
    match q.phase with
    | .main => if q.n + 1 < depth then some ⟨.main, q.n + 1, 0, 0⟩ else some ⟨.drain, 0, 0, 0⟩
    | .drain => if q.n < lat then some ⟨.drain, q.n + 1, 0, 0⟩ else none

/-- `x_ik`: element (i, k) of the left operand (R324). -/
def lhsElem (m : Memory) (g : GemmArrays) (i k : Nat) : F32 := memRead m g.lhs (i * g.lda + k)

/-- `y_kj`: element (k, j) of the right operand (R324). -/
def rhsElem (m : Memory) (g : GemmArrays) (k j : Nat) : F32 := memRead m g.rhs (k * g.ldb + j)

/-- `w_j`: the bias of column j, +0.0 without a bias (R325). -/
def biasElem (m : Memory) (g : GemmArrays) (j : Nat) : F32 :=
  match g.bias with
  | some b => memRead m b j
  | none => F32.posZero

/-- The running sum of lane (i, j) at the end of a GEMM (R331): the left-to-right fold over k of the terms
`FADD(p_k, +0.0)`, of which term 0 takes the bias where `lat_mul` = 0 or `ADDEND_ALIGN` = `WITH_PRODUCT`. -/
def gemmSum (p : Params) (m : Memory) (g : GemmArrays) (t : Tile) (i j : Nat) : F32 :=
  (List.range t.depth).foldl
    (fun acc k =>
      let w := if k = 0 ∧ (t.cfg.latMul = 0 ∨ p.addendAlign = .withProduct) then biasElem m g j else F32.posZero
      fadd p acc (fadd p (fmul p (lhsElem m g i k) (rhsElem m g k j)) w))
    F32.posZero

/-- The element of the platform's memory that GEMM writes for lane (i, j) (R329). -/
def dstElem (g : GemmArrays) (i j : Nat) : Nat := g.dst.base + (i * g.ldd + j)

/-! ### The event history of a GEMM (R96) -/

/-- A read of the space `sp`. -/
def GemmEvent.reads (sp : ReadSpace) : GemmEvent → Bool
  | .read space _ _ => decide (space = sp)
  | .step _ _ _ _ => false
  | .write _ _ => false

/-- A write of DST. -/
def GemmEvent.writes : GemmEvent → Bool
  | .read _ _ _ => false
  | .step _ _ _ _ => false
  | .write _ _ => true

/-- Row, column and operands of a STEP. -/
def GemmEvent.stepOf : GemmEvent → Option (Nat × Nat × LaneInput)
  | .read _ _ _ => none
  | .step r c x _ => some (r, c, x)
  | .write _ _ => none

/-- The element index of a write. -/
def GemmEvent.writeOf : GemmEvent → Option Nat
  | .read _ _ _ => none
  | .step _ _ _ _ => none
  | .write idx _ => some idx

/-- A valid output of lane (i, j) (R328). -/
def GemmEvent.validOut (i j : Nat) : GemmEvent → Option F32
  | .read _ _ _ => none
  | .step r c _ out => if r = i ∧ c = j ∧ out.v = true then some out.d else none
  | .write _ _ => none

/-- The reads that belong to the main tap (k, i, j) with the operands `x` (R96): LHS, RHS, and BIAS where k = 0 and a bias is
given. -/
def readsOf (g : GemmArrays) (k i j : Nat) (x : LaneInput) : List GemmEvent :=
  [.read .lhs (i * g.lda + k) x.a, .read .rhs (k * g.ldb + j) x.b]
    ++ if k = 0 ∧ g.bias ≠ none then [.read .bias j x.addend] else []

/-! ### The value of a finite pattern (R18) -/

/-- The rational number that a finite binary32 pattern stands for. -/
def f32Value (v : F32) : ℚ :=
  (if v.getLsbD 31 then -1 else 1) *
    (if f32Exp v = 0 then (f32Frac v : ℚ) * 2 ^ (-149 : ℤ)
     else (f32Frac v + 2 ^ 23 : ℚ) * 2 ^ ((f32Exp v : ℤ) - 150))

end Sys2Proof.Machine
end

