-- ==== Sys2Proof/Safety.lean ====
section
/-! DEFINITION. What counts as a good state and a completed instruction, in the terms the statements use. -/

namespace Sys2Proof.Machine

/-- A lane of a tile of configuration `cfg`: the counter is within its maximum (R42), each line has the length of its
stage's latency (R43), and the MUL line carries addends only under `WITH_PRODUCT` (R288). -/
def Lane.wf (p : Params) (cfg : Cfg) (l : Lane) : Prop :=
  l.cnt ≤ p.cntMax ∧ l.mulLine.length = cfg.latMul ∧ l.addLine.length = cfg.latAdd ∧ l.accLine.length = cfg.latAcc
    ∧ l.rndLine.length = cfg.latRnd ∧ l.satLine.length = cfg.latSat
    ∧ (p.addendAlign = .atAddInput → ∀ m ∈ l.mulLine, m.addend = F32.posZero)

/-- A LIVE tile between two commands: dimensions at least 1 and the FP32 kind (R39, R40), R·C lanes (R261), no sequencer
state (R48). -/
def Tile.wf (p : Params) (t : Tile) : Prop :=
  1 ≤ t.rows ∧ 1 ≤ t.cols ∧ 1 ≤ t.depth ∧ t.fmt.kind = .fp32 ∧ t.lanes.length = t.rows * t.cols
    ∧ (∀ l ∈ t.lanes, l.wf p t.cfg) ∧ t.seq = none

/-- The invariant of the machine: the memory is in canonical form, a LIVE tile is well formed, and a STEP output stands on
the result port with the status OK only (R351). -/
def State.inv (s : State) : Prop :=
  Memory.wf s.mem ∧ (∀ t, s.tile = some t → t.wf s.params)
    ∧ (s.result.out ≠ none → s.result.status = some .ok)

/-- The instruction answers a next state. -/
def Completes (i : Instr) (s : State) : Prop := ∃ t, exec i s = .next t

/-- The state with the operands of one STEP on the command port. -/
def State.withStepArgs (s : State) (r c : Nat) (x : LaneInput) : State :=
  { s with args := { s.args with row := r, col := c, inputValid := x.iv, a := x.a, b := x.b, addend := x.addend } }

/-- Successive STEP commands on one lane: the state after them and what each returned on `out` and `out_valid`; none where
one of them does not complete. -/
def stepCommands (r c : Nat) : List LaneInput → State → Option (State × List (Option Slot))
  | [], s => some (s, [])
  | x :: xs, s =>
    match exec .step (s.withStepArgs r c x) with
    | .next t => (stepCommands r c xs t).map fun q => (q.1, t.result.out :: q.2)
    | .fault _ => none
    | .refused _ => none

/-- `n` steps of the machine, stopping at the first refusal. -/
def runSteps : Nat → State → Host.Outcome State Fault Refusal
  | 0, s => .next s
  | n + 1, s =>
    match step s with
    | .next t => runSteps n t
    | .fault r => .fault r
    | .refused r => .refused r

/-- The arrays `g` stand on the command port. -/
def Args.offers (a : Args) (g : GemmArrays) : Prop :=
  a.lhs = some g.lhs ∧ a.rhs = some g.rhs ∧ a.bias = g.bias ∧ a.dst = some g.dst
    ∧ a.lda = g.lda ∧ a.ldb = g.ldb ∧ a.ldd = g.ldd

/-- The arrays contain the indices that R85 lists. -/
def GemmArrays.containIndices (g : GemmArrays) (t : Tile) : Prop :=
  (∀ i k, i < t.rows → k < t.depth → i * g.lda + k < g.lhs.len)
    ∧ (∀ k j, k < t.depth → j < t.cols → k * g.ldb + j < g.rhs.len)
    ∧ (∀ b, g.bias = some b → ∀ j, j < t.cols → j < b.len)
    ∧ (∀ i j, i < t.rows → j < t.cols → i * g.ldd + j < g.dst.len)

/-- An element of the platform's memory belongs to an array. -/
def ArrayRef.owns (r : ArrayRef) (e : Nat) : Prop := r.base ≤ e ∧ e < r.base + r.len

/-- No element of DST's index set belongs to an input array (R88). -/
def GemmArrays.separate (g : GemmArrays) (t : Tile) : Prop :=
  ∀ i j, i < t.rows → j < t.cols →
    ¬ g.lhs.owns (g.dst.base + (i * g.ldd + j)) ∧ ¬ g.rhs.owns (g.dst.base + (i * g.ldd + j))
      ∧ ∀ b, g.bias = some b → ¬ b.owns (g.dst.base + (i * g.ldd + j))

/-- The strides are at least their dimensions (R82). -/
def GemmArrays.stridesLegal (g : GemmArrays) (t : Tile) : Prop := t.depth ≤ g.lda ∧ t.cols ≤ g.ldb ∧ t.cols ≤ g.ldd

end Sys2Proof.Machine
end

