-- ==== Sys2Proof/Certificates/Slice0/Obligations.lean ====
section
/-! DEFINITION. The statements for the provers, in the order of OBLIGATIONS.json. Where a statement rests on a choice of the
model or on a decision, an inference or general knowledge that the spec marks as its own, its docstring says so. -/

open Sys2Proof Sys2Proof.Machine

/-! ### Encoding -/

/-- Decoding and encoding agree (spec/30_encoding.md R111 to R115, R119, R123): the encoding of a well-formed instruction
decodes to it, and a word decodes to it exactly where the bits that the row and the operands fix are those of the
encoding. -/
def Obligations.DecodeOfEncodeIsTheInstruction : Prop :=
  ∀ i : Instr, i.wellFormed = true →
    decode (encode i) = i
    ∧ (∀ (c : OpClass) (cw : ControlWord), i.opClass = some c →
        (decode (.control c cw) = i ↔ cw &&& i.codeMask = i.codeBits))
    ∧ (∀ code : CommandCode, i.opClass = none → (decode (.command code) = i ↔ code.setWidth 21 = i.codeBits))

/-- R116, R117: within a class the rows of spec/opcode_table.json partition all control words, and the decoder answers the
instruction of the row, well formed and of that class; the same for the command codes. -/
def Obligations.EveryWordSelectsOneRowOfEachClass : Prop :=
  (∀ (cw : ControlWord) (c : OpClass), ∃ r : Row,
    opcodeRows.filter (fun q => decide (q.cls = some c ∧ cw &&& q.mask = q.pattern)) = [r]
      ∧ r.mnemonic = (decodeClass c cw).mnemonic ∧ (decodeClass c cw).opClass = some c
      ∧ (decodeClass c cw).wellFormed = true)
  ∧ (∀ code : CommandCode, ∃ r : Row,
    opcodeRows.filter (fun q => decide (q.cls = none ∧ code.setWidth 21 &&& q.mask = q.pattern)) = [r]
      ∧ r.mnemonic = (decodeCommand code).mnemonic ∧ (decodeCommand code).opClass = none)

/-- R115, R129 (the packing is the spec's decision D10): `CW` is the sum that R115 gives, packing and unpacking are inverse,
and the accessors read the fields that R129 names. -/
def Obligations.ControlWordPacksTheSixInputs : Prop :=
  (∀ k : Control, Control.unpack k.pack = k
    ∧ k.pack.toNat = k.opmode.toNat + k.alumode.toNat * 2 ^ 7 + k.inmode.toNat * 2 ^ 11 + k.carryinsel.toNat * 2 ^ 16
        + k.carryin.toNat * 2 ^ 19 + k.carrycascin.toNat * 2 ^ 20
    ∧ k.xsel.toNat = k.opmode.toNat % 4 ∧ k.ysel.toNat = k.opmode.toNat / 4 % 4
    ∧ k.zsel.toNat = k.opmode.toNat / 16 ∧ (k.arith = true ↔ k.ysel = 1 ∨ k.ysel = 3))
  ∧ ∀ cw : ControlWord, (Control.unpack cw).pack = cw

/-- A few words of the spec's own examples, read bit by bit: R131 (0x000035), R225 (0x08023F), R206 (0x06100C), R184
(OPMODE 0b1001000), R123. -/
def Obligations.WrittenOutWordsDecode : Prop :=
  decodeEvaluation 0b000000000000000110101#21
      = [.aselC2, .bselC2, .dgateOff, .preaddAdd, .mult, .xmuxM, .ymuxM, .zmuxC, .cinCarryin 0, .add3]
  ∧ decode (.control .alu 0b010000000001000111111#21) = .arithRsvd 4
  ∧ decode (.control .cin 0b001100001000000001100#21) = .cinA24xb17
  ∧ decode (.control .asel 0b001100001000000001100#21) = .aselZero 0
  ∧ decode (.control .zmux 0b000000000011001001000#21) = .zmuxPcond 0 2
  ∧ decode (.control .alu 0b000000000011001001000#21) = .orY2A12
  ∧ decode (.control .xmux 0b000000000000000111101#21) = .xmuxMIll 3
  ∧ decode (.control .preadd 0b000000110000000000101#21) = .preaddSub
  ∧ decode (.control .dgate 0b000000110000000000101#21) = .dgateOn
  ∧ decode (.control .bsel 0b000001000000000000101#21) = .bselC1
  ∧ decode (.command 0b011#3) = .step ∧ decode (.command 0b110#3) = .cmdRsvd6

/-- One step of the machine is `exec` of the instruction that stands to be decoded; after a micro-operation the evaluation
stands at the next class (R117), after a command nothing is in progress; with nothing in progress the caller's next request
reaches the ports first, its operands conditioned and sampled once (R94, R405), and with no request nothing changes (R371).
That the caller's requests stand in a queue of which the next is taken when nothing is in progress, and one micro-operation
per step, are the model's choices (log entries 2 and 3). -/
def Obligations.StepRunsTheDecodedInstruction : Prop :=
  (∀ (s t : State) (c : OpClass), s.activity = .evaluating c → exec (decode (.control c s.ctl.pack)) s = .next t →
    step s = .next { t with activity := match c.succ with | some c' => .evaluating c' | none => .idle })
  ∧ (∀ (s t : State) (code : CommandCode), s.activity = .commanded code → exec (decode (.command code)) s = .next t →
    step s = .next { t with activity := .idle })
  ∧ (∀ (s : State) (r : Refusal) (code : CommandCode), s.activity = .commanded code →
    exec (decode (.command code)) s = .refused r → step s = .refused r)
  ∧ (∀ (s : State) (v : Supplied) (k : Control) (rest : List Request), s.activity = .idle →
    s.requests = .evaluate v k :: rest →
    step s = step { s with requests := rest, activity := .evaluating .asel, ports := condition v, ctl := k })
  ∧ (∀ (s : State) (code : CommandCode) (args : Args) (rest : List Request), s.activity = .idle →
    s.requests = .command code args :: rest →
    step s = step { s with requests := rest, activity := .commanded code, args := args })
  ∧ (∀ s : State, s.activity = .idle → s.requests = [] → step s = .next s)

/-! ### Operand conditioning -/

/-- R150 (for `PCIN` and `PFB` by the spec's inference): on every port stands the value whose two's-complement reading is
`sext` of the supplied integer at the declared width, and bits above the declared width are discarded. -/
def Obligations.RequestOperandsAreConditioned : Prop :=
  ∀ v : Supplied,
    (condition v).a1.toInt = sext 30 v.a1 ∧ (condition v).a2.toInt = sext 30 v.a2
    ∧ (condition v).b1.toInt = sext 18 v.b1 ∧ (condition v).b2.toInt = sext 18 v.b2
    ∧ (condition v).c.toInt = sext 48 v.c ∧ (condition v).d.toInt = sext 25 v.d
    ∧ (condition v).pcin.toInt = sext 48 v.pcin ∧ (condition v).pfb.toInt = sext 48 v.pfb
    ∧ (condition v).ccofb = v.ccofb
    ∧ ∀ q : Int × Int × Int × Int,
        condition { v with a1 := v.a1 + q.1 * 2 ^ 30, b2 := v.b2 + q.2.1 * 2 ^ 18, c := v.c + q.2.2.1 * 2 ^ 48,
                           d := v.d + q.2.2.2 * 2 ^ 25 } = condition v

/-- R163, for every width of at least one bit. -/
def Obligations.SignExtensionProperty : Prop :=
  ∀ (n : Nat) (v : Int), 1 ≤ n →
    zext n (sext n v) = zext n v
    ∧ (v.testBit (n - 1) = false → sext n v = zext n v ∧ 0 ≤ sext n v)
    ∧ (v.testBit (n - 1) = true → sext n v = zext n v - 2 ^ n ∧ sext n v < 0)

/-! ### The micro-operations: result, frame and encoding -/

/-- R151 to R155 (the polarity of the capture bits is the spec's decision D2). -/
def Obligations.SelectsOfAAndB : Prop :=
  (∀ s : State, exec .aselC2 s = .next { s with nodes := { s.nodes with asel := s.ports.a2 } })
  ∧ (∀ s : State, exec .aselC1 s = .next { s with nodes := { s.nodes with asel := s.ports.a1 } })
  ∧ (∀ (s : State) (cap1 : BitVec 1), exec (.aselZero cap1) s = .next { s with nodes := { s.nodes with asel := 0 } })
  ∧ (∀ s : State, exec .bselC2 s = .next { s with nodes := { s.nodes with bsel := s.ports.b2 } })
  ∧ (∀ s : State, exec .bselC1 s = .next { s with nodes := { s.nodes with bsel := s.ports.b1 } })
  ∧ ∀ cw : ControlWord,
      decodeClass .asel cw
          = (if cw.getLsbD 12 then .aselZero (cw.extractLsb' 11 1) else if cw.getLsbD 11 then .aselC1 else .aselC2)
      ∧ decodeClass .bsel cw = (if cw.getLsbD 15 then .bselC1 else .bselC2)

/-- R156, R157: the gate on INMODE[2]; with the gate off the pre-adder passes the 25-bit view of A, or its negation as a 25-bit
value, which wraps at −2^24 by the spec's decision D8 (R158, R159; log entry 26). -/
def Obligations.TheDGate : Prop :=
  (∀ s : State, exec .dgateOff s = .next { s with nodes := { s.nodes with deff := 0 } })
  ∧ (∀ s : State, exec .dgateOn s = .next { s with nodes := { s.nodes with deff := s.ports.d } })
  ∧ (∀ cw : ControlWord, decodeClass .dgate cw = (if cw.getLsbD 13 then .dgateOn else .dgateOff))
  ∧ ∀ s : State, s.nodes.deff = 0 →
      exec .preaddAdd s = .next { s with nodes := { s.nodes with ad := s.nodes.asel.extractLsb' 0 25 } }
      ∧ exec .preaddSub s = .next { s with nodes := { s.nodes with ad := -(s.nodes.asel.extractLsb' 0 25) } }

/-- R158, R159, R160 (the wrap to 25 bits is the spec's decision D8): `AD` is `sext_25` of DEFF ± A25, A subtracted from
D. -/
def Obligations.ThePreAdderWraps : Prop :=
  (∀ s : State, ∃ v : BitVec 25, v.toInt = sext 25 (s.nodes.deff.toInt + sext 25 s.nodes.asel.toInt)
    ∧ exec .preaddAdd s = .next { s with nodes := { s.nodes with ad := v } })
  ∧ (∀ s : State, ∃ v : BitVec 25, v.toInt = sext 25 (s.nodes.deff.toInt - sext 25 s.nodes.asel.toInt)
    ∧ exec .preaddSub s = .next { s with nodes := { s.nodes with ad := v } })
  ∧ ∀ cw : ControlWord, decodeClass .preadd cw = (if cw.getLsbD 14 then .preaddSub else .preaddAdd)

/-- R161: the exact product, on every evaluation. Its range is stated as it follows from the operand widths: the least
product is −(2^24 − 1)·2^17, which lies below the bound −(2^24)(2^17 − 1) that R161 prints (log entry 30). -/
def Obligations.TheMultiplierIsExact : Prop :=
  (∀ s : State, exec .mult s
    = .next { s with nodes := { s.nodes with m := s.nodes.ad.toInt * s.nodes.bsel.toInt } })
  ∧ (∀ cw : ControlWord, decodeClass .mult cw = .mult)
  ∧ (∀ s t : State, exec .mult s = .next t → -((2 ^ 24 - 1) * 2 ^ 17) ≤ t.nodes.m ∧ t.nodes.m ≤ 2 ^ 41)
  ∧ (∃ s t : State, exec .mult s = .next t ∧ t.nodes.m = 2 ^ 41)
  ∧ (∃ s t : State, exec .mult s = .next t ∧ t.nodes.m = -((2 ^ 24 - 1) * 2 ^ 17))

/-- R170, R172, R174, and the selections of `M` and of `PFB` (R171, R173). -/
def Obligations.TheXMux : Prop :=
  (∀ s : State, exec .xmuxZero s = .next { s with nodes := { s.nodes with x := 0 } })
  ∧ (∀ s : State, exec .xmuxM s = .next { s with nodes := { s.nodes with x := s.nodes.m } })
  ∧ (∀ (s : State) (ysel : BitVec 2), exec (.xmuxMIll ysel) s = .next { s with nodes := { s.nodes with x := 0 } })
  ∧ (∀ s : State, exec .xmuxP s = .next { s with nodes := { s.nodes with x := s.ports.pfb.toInt } })
  ∧ (∀ s : State, exec .xmuxAb s
      = .next { s with nodes := { s.nodes with
          x := sext 48 (zext 30 s.nodes.asel.toInt * 2 ^ 18 + zext 18 s.nodes.bsel.toInt) } })
  ∧ ∀ cw : ControlWord, decodeClass .xmux cw =
      match (cw.extractLsb' 0 2).toNat, (cw.extractLsb' 2 2).toNat with
      | 0, _ => .xmuxZero
      | 1, 1 => .xmuxM
      | 1, _ => .xmuxMIll (cw.extractLsb' 2 2)
      | 2, _ => .xmuxP
      | _, _ => .xmuxAb

/-- R175, R177, R178, R179: the selections of Y without the multiplier (R176 is TheMultiplierOnY), and the decoding of all
five. -/
def Obligations.TheYMux : Prop :=
  (∀ s : State, exec .ymuxZero s = .next { s with nodes := { s.nodes with y := 0 } })
  ∧ (∀ (s : State) (xsel : BitVec 2), exec (.ymuxMIll xsel) s = .next { s with nodes := { s.nodes with y := 0 } })
  ∧ (∀ s : State, exec .ymuxOnes s = .next { s with nodes := { s.nodes with y := -1 } })
  ∧ (∀ s : State, exec .ymuxC s = .next { s with nodes := { s.nodes with y := s.ports.c.toInt } })
  ∧ ∀ cw : ControlWord, decodeClass .ymux cw =
      match (cw.extractLsb' 2 2).toNat, (cw.extractLsb' 0 2).toNat with
      | 0, _ => .ymuxZero
      | 1, 1 => .ymuxM
      | 1, _ => .ymuxMIll (cw.extractLsb' 0 2)
      | 2, _ => .ymuxOnes
      | _, _ => .ymuxC

/-- R176: what Y carries when both muxes select the multiplier is the open parameter `MULT_SPLIT`, here at each of its two
values. -/
def Obligations.TheMultiplierOnY : Prop :=
  ∀ s : State,
    (s.params.multSplit = .dup → exec .ymuxM s = .next { s with nodes := { s.nodes with y := s.nodes.m } })
    ∧ (s.params.multSplit = .sum → exec .ymuxM s = .next { s with nodes := { s.nodes with y := 0 } })

/-- R180 to R183, R185 to R187: the seven selections of Z without a condition (R184 is TheConditionalFeedbackOnZ), and the
decoding of all eight. That the document's list is the codes 0 to 7 in order is the spec's decision D4 (log entry 25). -/
def Obligations.TheZMux : Prop :=
  (∀ s : State, exec .zmuxZero s = .next { s with nodes := { s.nodes with z := 0 } })
  ∧ (∀ s : State, exec .zmuxPcin s = .next { s with nodes := { s.nodes with z := s.ports.pcin.toInt } })
  ∧ (∀ s : State, exec .zmuxP s = .next { s with nodes := { s.nodes with z := s.ports.pfb.toInt } })
  ∧ (∀ s : State, exec .zmuxC s = .next { s with nodes := { s.nodes with z := s.ports.c.toInt } })
  ∧ (∀ s : State, exec .zmuxPcin17 s = .next { s with nodes := { s.nodes with z := s.ports.pcin.toInt * 2 ^ 17 } })
  ∧ (∀ s : State, exec .zmuxP17 s = .next { s with nodes := { s.nodes with z := s.ports.pfb.toInt * 2 ^ 17 } })
  ∧ (∀ s : State, exec .zmuxRsvd s = .next { s with nodes := { s.nodes with z := 0 } })
  ∧ ∀ cw : ControlWord, decodeClass .zmux cw =
      match (cw.extractLsb' 4 3).toNat with
      | 0 => .zmuxZero
      | 1 => .zmuxPcin
      | 2 => .zmuxP
      | 3 => .zmuxC
      | 4 => .zmuxPcond (cw.extractLsb' 0 2) (cw.extractLsb' 2 2)
      | 5 => .zmuxPcin17
      | 6 => .zmuxP17
      | _ => .zmuxRsvd

/-- R184, for every value of the parameter `Z4_COND`; its value in the state after reset is the spec's reference value, taken
from general knowledge (GK3, D5). -/
def Obligations.TheConditionalFeedbackOnZ : Prop :=
  (∀ (s : State) (xsel ysel : BitVec 2), exec (.zmuxPcond xsel ysel) s
    = .next { s with nodes := { s.nodes with
        z := if (xsel, ysel) ∈ s.params.z4Cond then s.ports.pfb.toInt else 0 } })
  ∧ ∀ xsel ysel : BitVec 2, (xsel, ysel) ∈ State.reset.params.z4Cond ↔ xsel = 0 ∧ ysel = 2

/-- R200, R201, R202, R206, R207: five carry sources, a sign bit read as the sign of the operand (the other three are
TheInferredCarrySources), and the decoding of all eight. That the document's list is the codes 0 to 7 in order is the spec's
decision D4 (log entry 25). -/
def Obligations.TheCarrySources : Prop :=
  (∀ (s : State) (b : BitVec 1), exec (.cinCarryin b) s = .next { s with nodes := { s.nodes with cin := b } })
  ∧ (∀ (s : State) (b : BitVec 1), exec (.cinCarrycascin b) s = .next { s with nodes := { s.nodes with cin := b } })
  ∧ (∀ s : State, exec .cinNpcin47 s
      = .next { s with nodes := { s.nodes with cin := if s.ports.pcin.toInt < 0 then 0 else 1 } })
  ∧ (∀ s : State, exec .cinA24xb17 s
      = .next { s with nodes := { s.nodes with
          cin := if sext 25 s.nodes.asel.toInt < 0 ↔ s.nodes.bsel.toInt < 0 then 0 else 1 } })
  ∧ (∀ s : State, exec .cinP47 s
      = .next { s with nodes := { s.nodes with cin := if s.ports.pfb.toInt < 0 then 1 else 0 } })
  ∧ ∀ cw : ControlWord, decodeClass .cin cw =
      match (cw.extractLsb' 16 3).toNat with
      | 0 => .cinCarryin (cw.extractLsb' 19 1)
      | 1 => .cinNpcin47
      | 2 => .cinCarrycascin (cw.extractLsb' 20 1)
      | 3 => .cinPcin47
      | 4 => .cinCcofb
      | 5 => .cinNp47
      | 6 => .cinA24xb17
      | _ => .cinP47

/-- R203, R204, R205: the carry sources that rest on the spec's own reading (the inference in R203, the ports of decision
D3). -/
def Obligations.TheInferredCarrySources : Prop :=
  (∀ s : State, exec .cinPcin47 s
      = .next { s with nodes := { s.nodes with cin := if s.ports.pcin.toInt < 0 then 1 else 0 } })
  ∧ (∀ s : State, exec .cinCcofb s = .next { s with nodes := { s.nodes with cin := s.ports.ccofb } })
  ∧ (∀ s : State, exec .cinNp47 s
      = .next { s with nodes := { s.nodes with cin := if s.ports.pfb.toInt < 0 then 0 else 1 } })

/-- R221 to R225: the four sums and the reserved codes; `P` is the low 48 bits of `R`. -/
def Obligations.TheArithmeticFunctions : Prop :=
  (∀ (s : State) (sum : Int), s.nodes.x + s.nodes.y + s.nodes.z + s.nodes.cin.toNat = sum →
    exec .add3 s = .next { s with nodes := { s.nodes with r := sum }, p := BitVec.ofInt 48 sum }
    ∧ exec .notAdd3 s = .next { s with nodes := { s.nodes with r := -sum - 1 }, p := BitVec.ofInt 48 (-sum - 1) })
  ∧ (∀ (s : State) (v : Int), s.nodes.x + s.nodes.y + (-s.nodes.z - 1) + s.nodes.cin.toNat = v →
    exec .add3Nz s = .next { s with nodes := { s.nodes with r := v }, p := BitVec.ofInt 48 v })
  ∧ (∀ (s : State) (v : Int), s.nodes.z - (s.nodes.x + s.nodes.y + s.nodes.cin.toNat) = v →
    exec .zsub s = .next { s with nodes := { s.nodes with r := v }, p := BitVec.ofInt 48 v })
  ∧ (∀ (s : State) (alumode : BitVec 4),
    exec (.arithRsvd alumode) s = .next { s with nodes := { s.nodes with r := 0 }, p := 0 })
  ∧ ∀ cw : ControlWord, cw.getLsbD 2 = true → decodeClass .alu cw =
      match (cw.extractLsb' 7 4).toNat with
      | 0 => .add3
      | 1 => .add3Nz
      | 2 => .notAdd3
      | 3 => .zsub
      | _ => .arithRsvd (cw.extractLsb' 7 4)

/-- R228 to R235, R226: the logic functions with YSEL = 0. Under any `LOGIC_TABLE` each is the function of its own cell, or 0
where the table does not define it (R246 (e)); under the table after reset, the reference value that the spec takes from
general knowledge (R227, GK2, D6; log entry 9), they are the eight named functions. -/
def Obligations.TheLogicFunctionsOfTheFirstColumn : Prop :=
  (∀ s : State,
    AnswersCell .xorY0A4 ⟨0, 4⟩ s ∧ AnswersCell .xnorY0A5 ⟨0, 5⟩ s ∧ AnswersCell .xnorY0A6 ⟨0, 6⟩ s
    ∧ AnswersCell .xorY0A7 ⟨0, 7⟩ s ∧ AnswersCell .andY0A12 ⟨0, 12⟩ s ∧ AnswersCell .andnY0A13 ⟨0, 13⟩ s
    ∧ AnswersCell .nandY0A14 ⟨0, 14⟩ s ∧ AnswersCell .ornxY0A15 ⟨0, 15⟩ s)
  ∧ (∀ s : State, s.params.logicTable = State.reset.params.logicTable →
    AnswersBitwise .xorY0A4 (fun x z => x != z) s ∧ AnswersBitwise .xnorY0A5 (fun x z => x == z) s
    ∧ AnswersBitwise .xnorY0A6 (fun x z => x == z) s ∧ AnswersBitwise .xorY0A7 (fun x z => x != z) s
    ∧ AnswersBitwise .andY0A12 (fun x z => x && z) s ∧ AnswersBitwise .andnY0A13 (fun x z => x && !z) s
    ∧ AnswersBitwise .nandY0A14 (fun x z => !(x && z)) s ∧ AnswersBitwise .ornxY0A15 (fun x z => !x || z) s)
  ∧ ∀ cw : ControlWord, cw.getLsbD 2 = false → cw.getLsbD 3 = false → decodeClass .alu cw =
      match (cw.extractLsb' 7 4).toNat with
      | 4 => .xorY0A4
      | 5 => .xnorY0A5
      | 6 => .xnorY0A6
      | 7 => .xorY0A7
      | 12 => .andY0A12
      | 13 => .andnY0A13
      | 14 => .nandY0A14
      | 15 => .ornxY0A15
      | _ => .logicRsvd ⟨0, cw.extractLsb' 7 4⟩

/-- R236 to R243, R226: the logic functions with YSEL = 2, the mirrored column, in the same form (R227, GK2, D6; log entry
9). -/
def Obligations.TheLogicFunctionsOfTheMirroredColumn : Prop :=
  (∀ s : State,
    AnswersCell .xnorY2A4 ⟨2, 4⟩ s ∧ AnswersCell .xorY2A5 ⟨2, 5⟩ s ∧ AnswersCell .xorY2A6 ⟨2, 6⟩ s
    ∧ AnswersCell .xnorY2A7 ⟨2, 7⟩ s ∧ AnswersCell .orY2A12 ⟨2, 12⟩ s ∧ AnswersCell .ornY2A13 ⟨2, 13⟩ s
    ∧ AnswersCell .norY2A14 ⟨2, 14⟩ s ∧ AnswersCell .andnxY2A15 ⟨2, 15⟩ s)
  ∧ (∀ s : State, s.params.logicTable = State.reset.params.logicTable →
    AnswersBitwise .xnorY2A4 (fun x z => x == z) s ∧ AnswersBitwise .xorY2A5 (fun x z => x != z) s
    ∧ AnswersBitwise .xorY2A6 (fun x z => x != z) s ∧ AnswersBitwise .xnorY2A7 (fun x z => x == z) s
    ∧ AnswersBitwise .orY2A12 (fun x z => x || z) s ∧ AnswersBitwise .ornY2A13 (fun x z => x || !z) s
    ∧ AnswersBitwise .norY2A14 (fun x z => !(x || z)) s ∧ AnswersBitwise .andnxY2A15 (fun x z => !x && z) s)
  ∧ ∀ cw : ControlWord, cw.getLsbD 2 = false → cw.getLsbD 3 = true → decodeClass .alu cw =
      match (cw.extractLsb' 7 4).toNat with
      | 4 => .xnorY2A4
      | 5 => .xorY2A5
      | 6 => .xorY2A6
      | 7 => .xnorY2A7
      | 12 => .orY2A12
      | 13 => .ornY2A13
      | 14 => .norY2A14
      | 15 => .andnxY2A15
      | _ => .logicRsvd ⟨2, cw.extractLsb' 7 4⟩

/-- R244 with R225, R245, R246 (e): LOGIC.RSVD completes with the function of its cell where the table defines it and with zero
where it does not; an evaluation whose ALU code is reserved in its mode leaves `P` = 0, whatever the operands. Which logic
codes the table after reset reserves follows the reference table (R227, GK2; log entry 9). Ten steps for an evaluation are the
model's choice (log entry 3). -/
def Obligations.ReservedAluCodesGiveZero : Prop :=
  (∀ (s : State) (code : LogicCode), AnswersCell (.logicRsvd code) code s
    ∧ (lookupLogic s.params.logicTable code = none →
      exec (.logicRsvd code) s = .next { s with nodes := { s.nodes with r := 0 }, p := 0 }))
  ∧ (∀ (s : State) (v : Supplied) (k : Control) (rest : List Request), s.activity = .idle →
      s.requests = .evaluate v k :: rest →
      (k.opmode.getLsbD 2 = true ∧ 4 ≤ k.alumode.toNat)
        ∨ (k.opmode.getLsbD 2 = false ∧ lookupLogic s.params.logicTable ⟨k.opmode.extractLsb' 2 2, k.alumode⟩ = none) →
      ∃ t : State, runSteps 10 s = .next t ∧ t.p = 0 ∧ t.nodes.r = 0)
  ∧ ∀ code : LogicCode, code.ysel.getLsbD 0 = false →
      (lookupLogic State.reset.params.logicTable code = none ↔ code.alumode.getLsbD 2 = false)

/-! ### A whole evaluation of the slice -/

/-- The collected rules R162, R188, R208, R246 (the spec's inferences): one evaluation writes the nodes and `P` as the collected
functions say, and changes neither tile, memory, results nor parameters. That it takes ten steps, one for each micro-operation,
and starts from the queue of requests is the model's choice (log entries 3 and 2). -/
def Obligations.TenStepsGiveTheCollectedResult : Prop :=
  ∀ (s : State) (v : Supplied) (k : Control) (rest : List Request), s.activity = .idle →
    s.requests = .evaluate v k :: rest →
    ∃ n : Nodes,
      runSteps 10 s = .next { s with requests := rest, activity := .idle, ports := condition v, ctl := k, nodes := n,
                                     p := refP s.params v k }
      ∧ n.asel.toInt = refAsel v k ∧ n.bsel.toInt = refBsel v k ∧ n.ad.toInt = refAd v k ∧ n.m = refM v k
      ∧ n.x = refX v k ∧ n.y = refY s.params v k ∧ n.z = refZ s.params v k ∧ (n.cin.toNat : Int) = refCin v k

/-- R37, R116: every control word and every operand value give a defined `P`, and `P` depends on the inputs and the
parameters only. That the evaluation is complete after ten steps is the model's choice (log entry 3). -/
def Obligations.ThePOfAnEvaluationIsAFunctionOfItsInputs : Prop :=
  ∀ (s₁ s₂ : State) (v : Supplied) (k : Control) (rest₁ rest₂ : List Request),
    s₁.activity = .idle → s₂.activity = .idle → s₁.requests = .evaluate v k :: rest₁ →
    s₂.requests = .evaluate v k :: rest₂ → s₁.params = s₂.params →
    ∃ t₁ t₂ : State, runSteps 10 s₁ = .next t₁ ∧ runSteps 10 s₂ = .next t₂ ∧ t₁.p = t₂.p

/-- R176, R183, R221: with OPMODE[3:0] = 0101 and ALUMODE = 0, `P` is twice the product under `DUP` and the product under
`SUM`, plus Z and the carry. `MULT_SPLIT` is open (D7); ten steps for an evaluation are the model's choice (log entry 3). -/
def Obligations.TheTwoReadingsOfTheProduct : Prop :=
  ∀ (s : State) (v : Supplied) (k : Control) (rest : List Request), s.activity = .idle →
    s.requests = .evaluate v k :: rest → k.opmode.toNat % 16 = 5 → k.alumode = 0 →
    ∃ t : State, runSteps 10 s = .next t
      ∧ (s.params.multSplit = .dup →
          t.p = BitVec.ofInt 48 (2 * refM v k + refZ s.params v k + refCin v k))
      ∧ (s.params.multSplit = .sum → t.p = BitVec.ofInt 48 (refM v k + refZ s.params v k + refCin v k))

/-! ### Floating point -/

/-- R285 (for a NaN the spec's decision D20): `sat32` is finite, keeps the sign, keeps a finite value, and gives the largest
finite magnitude otherwise. -/
def Obligations.SaturationClampsToTheFiniteRange : Prop :=
  ∀ v : F32,
    isFinite (sat32 v) = true ∧ f32Sign (sat32 v) = f32Sign v ∧ (isFinite v = true → sat32 v = v)
    ∧ (isFinite v = false → |f32Value (sat32 v)| = (2 - 2 ^ (-23 : ℤ)) * 2 ^ 127)

/-- R285: the two candidates of the open `ROUND_FN` (D19). `RNE_FMT` is the identity for FP32; `RNE_INT` is the nearest
integer, ties to even, with NaN, infinities and the sign kept. -/
def Obligations.TheCandidatesOfTheRoundingFunction : Prop :=
  ∀ v : F32,
    roundFn .rneFmt v = v
    ∧ (isFinite v = false → roundFn .rneInt v = v)
    ∧ f32Sign (roundFn .rneInt v) = f32Sign v
    ∧ (isFinite v = true → isFinite (roundFn .rneInt v) = true
        ∧ ∃ n : Int, f32Value (roundFn .rneInt v) = n ∧ |f32Value v - n| ≤ 1 / 2
          ∧ (|f32Value v - n| = 1 / 2 → n % 2 = 0))

/-- R283 (general knowledge and decision D18; log entry 12): the special values of `FMUL` where the configuration field is at its
reference value, the IEEE-754 product. -/
def Obligations.TheSpecialProducts : Prop :=
  ∀ (p : Params) (a b : F32), p.fmulFn = .ieee →
    (isNaN (fmul p a b) = true ↔
      isNaN a = true ∨ isNaN b = true ∨ (isInf a = true ∧ isZero b = true) ∨ (isZero a = true ∧ isInf b = true))
    ∧ (isNaN (fmul p a b) = false → f32Sign (fmul p a b) = (f32Sign a != f32Sign b) ∧ fmul p a b = fmul p b a)
    ∧ (isNaN (fmul p a b) = false → isInf a = true ∨ isInf b = true → isInf (fmul p a b) = true)
    ∧ (isNaN (fmul p a b) = false → isZero a = true ∨ isZero b = true → isZero (fmul p a b) = true)

/-- R284 and R331's remark on +0.0 (general knowledge and decision D18; log entry 12): the special values of `FADD` where the
configuration field is at its reference value. -/
def Obligations.TheSpecialSums : Prop :=
  ∀ (p : Params) (a b : F32), p.faddFn = .ieee →
    (isNaN (fadd p a b) = true ↔
      isNaN a = true ∨ isNaN b = true ∨ (isInf a = true ∧ isInf b = true ∧ f32Sign a ≠ f32Sign b))
    ∧ (isNaN (fadd p a b) = false → fadd p a b = fadd p b a)
    ∧ (isInf a = true → isFinite b = true → fadd p a b = a)
    ∧ (isFinite a = true → fadd p a (a ^^^ 0x80000000#32) = F32.posZero)
    ∧ (isNaN a = false → fadd p a F32.posZero = if a = 0x80000000#32 then F32.posZero else a)

/-- R283 (general knowledge and decision D18; log entry 12), at the field's reference value: a finite product is the nearest F32
to the exact product, ties to even, with gradual underflow; from 2^128 − 2^103 on it is an infinity. -/
def Obligations.TheProductIsTheNearestFloat : Prop :=
  ∀ (p : Params) (a b : F32), p.fmulFn = .ieee → isFinite a = true → isFinite b = true →
    (|f32Value a * f32Value b| < 2 ^ 128 - 2 ^ 103 →
      isFinite (fmul p a b) = true ∧ ∀ w : F32, isFinite w = true →
        |f32Value (fmul p a b) - f32Value a * f32Value b| ≤ |f32Value w - f32Value a * f32Value b|
        ∧ (f32Value w ≠ f32Value (fmul p a b) →
            |f32Value w - f32Value a * f32Value b| = |f32Value (fmul p a b) - f32Value a * f32Value b| →
            (fmul p a b).getLsbD 0 = false))
    ∧ (2 ^ 128 - 2 ^ 103 ≤ |f32Value a * f32Value b| →
        fmul p a b = if f32Sign a = f32Sign b then 0x7F800000#32 else 0xFF800000#32)

/-- R284 (general knowledge and decision D18; log entry 12), at the field's reference value: the same for the sum, whose sign is
that of the exact sum. -/
def Obligations.TheSumIsTheNearestFloat : Prop :=
  ∀ (p : Params) (a b : F32), p.faddFn = .ieee → isFinite a = true → isFinite b = true →
    (|f32Value a + f32Value b| < 2 ^ 128 - 2 ^ 103 →
      isFinite (fadd p a b) = true ∧ ∀ w : F32, isFinite w = true →
        |f32Value (fadd p a b) - (f32Value a + f32Value b)| ≤ |f32Value w - (f32Value a + f32Value b)|
        ∧ (f32Value w ≠ f32Value (fadd p a b) →
            |f32Value w - (f32Value a + f32Value b)| = |f32Value (fadd p a b) - (f32Value a + f32Value b)| →
            (fadd p a b).getLsbD 0 = false))
    ∧ (2 ^ 128 - 2 ^ 103 ≤ f32Value a + f32Value b → fadd p a b = 0x7F800000#32)
    ∧ (f32Value a + f32Value b ≤ -(2 ^ 128 - 2 ^ 103) → fadd p a b = 0xFF800000#32)

/-! ### The lifecycle of a tile -/

/-- R260, R53 (the zeros are the spec's decision D16, the lane order D32): INIT on an UNALLOCATED handle creates the tile in
the reset state and changes nothing else. -/
def Obligations.InitCreatesAResetTile : Prop :=
  ∀ s : State, s.tile = none → s.args.fmt.kind = .fp32 → s.args.rows ≠ 0 → s.args.cols ≠ 0 → s.args.depth ≠ 0 →
    s.args.allocOk = true →
    exec .init s = .next { s with
      tile := some { rows := s.args.rows, cols := s.args.cols, depth := s.args.depth, cfg := s.args.cfg, fmt := s.args.fmt,
                     lanes := List.replicate (s.args.rows * s.args.cols)
                       ⟨0, 0, List.replicate s.args.cfg.latMul ⟨0, 0, false⟩,
                        List.replicate s.args.cfg.latAdd ⟨0, false⟩, List.replicate s.args.cfg.latAcc ⟨0, false⟩,
                        List.replicate s.args.cfg.latRnd ⟨0, false⟩, List.replicate s.args.cfg.latSat ⟨0, false⟩⟩,
                     cycle := 0, seq := none },
      result := ⟨some .ok, none⟩ }

/-- R260, R352, R353, R361 (the order of the two checks is the spec's decision D14): CONFIG for a zero dimension whatever the
allocation would do, else ALLOC; nothing but the result changes. -/
def Obligations.InitChecksConfigBeforeAlloc : Prop :=
  ∀ s : State, s.tile = none → s.args.fmt.kind = .fp32 →
    ((s.args.rows = 0 ∨ s.args.cols = 0 ∨ s.args.depth = 0) →
      exec .init s = .next { s with result := ⟨some .config, none⟩ })
    ∧ (s.args.rows ≠ 0 → s.args.cols ≠ 0 → s.args.depth ≠ 0 → s.args.allocOk = false →
      exec .init s = .next { s with result := ⟨some .alloc, none⟩ })

/-- R262: INIT either fully succeeds or leaves nothing to free. -/
def Obligations.InitIsAllOrNothing : Prop :=
  ∀ s t : State, exec .init s = .next t →
    (t.result.status = some .ok ∧ ∃ u : Tile, t.tile = some u ∧ u.wf s.params)
    ∨ ((t.result.status = some .config ∨ t.result.status = some .alloc) ∧ s.tile = none ∧ t.tile = none
        ∧ t = { s with result := t.result })

/-- R263: RESET clears every lane and the cycle counter, keeps configuration and dimensions, and cannot fail on a LIVE tile. -/
def Obligations.ResetClearsTheTile : Prop :=
  ∀ (s : State) (t : Tile), s.tile = some t → ∃ lanes : List Lane,
    exec .reset s = .next { s with tile := some { t with lanes := lanes, cycle := 0 }, result := ⟨some .ok, none⟩ }
    ∧ lanes.length = t.lanes.length
    ∧ ∀ (n : Nat) (l : Lane), t.lanes[n]? = some l →
        lanes[n]? = some ⟨0, 0, List.replicate l.mulLine.length ⟨0, 0, false⟩,
          List.replicate l.addLine.length ⟨0, false⟩, List.replicate l.accLine.length ⟨0, false⟩,
          List.replicate l.rndLine.length ⟨0, false⟩, List.replicate l.satLine.length ⟨0, false⟩⟩

/-- R264, R393 (the spec's inferences): RESET after RESET, and RESET after a successful INIT, change nothing. -/
def Obligations.ResetIsIdempotent : Prop :=
  (∀ s t : State, exec .reset s = .next t → exec .reset t = .next t)
  ∧ ∀ s t : State, exec .init s = .next t → t.result.status = some .ok → exec .reset t = .next t

/-- R265: FREE leaves the handle UNALLOCATED from every state, returns no status, is a no-op on an UNALLOCATED handle, and a
new INIT may follow with any dimensions and configuration. -/
def Obligations.FreeReleasesTheTile : Prop :=
  (∀ s : State, exec .free s = .next { s with tile := none, result := ⟨none, none⟩ })
  ∧ (∀ s : State, s.tile = none → exec .free s = .next { s with result := ⟨none, none⟩ })
  ∧ ∀ (s t : State) (args : Args), exec .free s = .next t → args.fmt.kind = .fp32 →
      Completes .init { t with args := args }

/-- R267, R372 (the refusals are the spec's decision D17, U1 and U2): the commands outside the lifecycle have no
transition. -/
def Obligations.CommandsOutsideTheLifecycleAreRefused : Prop :=
  (∀ (s : State) (t : Tile), s.tile = some t → exec .init s = .refused .initOnLive)
  ∧ (∀ s : State, s.tile = none → exec .reset s = .refused .unallocated ∧ exec .step s = .refused .unallocated
      ∧ exec .gemm s = .refused .unallocated)
  ∧ (∀ s : State, s.tile = none → s.args.fmt.kind ≠ .fp32 → exec .init s = .refused .unsupportedFormat)

/-- R128 (decision D12, U8): the reserved command codes decode to the three reserved commands, and each is refused. -/
def Obligations.ReservedCommandsAreRefused : Prop :=
  decode (.command 5) = .cmdRsvd5 ∧ decode (.command 6) = .cmdRsvd6 ∧ decode (.command 7) = .cmdRsvd7
  ∧ ∀ s : State, exec .cmdRsvd5 s = .refused .reservedCommand ∧ exec .cmdRsvd6 s = .refused .reservedCommand
      ∧ exec .cmdRsvd7 s = .refused .reservedCommand

/-! ### STEP -/

/-- R286, R294: STEP is its pseudocode on the addressed lane, with `cycle` one higher and everything else unchanged; out of
range it returns BOUNDS and changes nothing. -/
def Obligations.StepIsItsPseudocode : Prop :=
  ∀ (s : State) (t : Tile), s.tile = some t →
    ((t.rows ≤ s.args.row ∨ t.cols ≤ s.args.col) → exec .step s = .next { s with result := ⟨some .bounds, none⟩ })
    ∧ (s.args.row < t.rows → s.args.col < t.cols → ∀ (l : Lane) (out : Slot),
        refLaneStep s.params t.cfg ⟨s.args.inputValid, s.args.a, s.args.b, s.args.addend⟩
          (t.lane s.args.row s.args.col) = (l, out) →
        exec .step s = .next { s with
          tile := some { t with lanes := t.lanes.set (s.args.row * t.cols + s.args.col) l, cycle := t.cycle + 1 }
          result := ⟨some .ok, some out⟩ })

/-- R45: a STEP reads and writes the addressed lane and `cycle` only. -/
def Obligations.StepTouchesOneLaneOnly : Prop :=
  (∀ (s u : State) (t : Tile), s.inv → s.tile = some t → exec .step s = .next u →
    ∃ t' : Tile, u.tile = some t' ∧ ∀ r c : Nat, r < t.rows → c < t.cols → (r, c) ≠ (s.args.row, s.args.col) →
      t'.lane r c = t.lane r c)
  ∧ ∀ (s₁ s₂ : State) (t₁ t₂ : Tile), s₁.inv → s₂.inv → s₁.tile = some t₁ → s₂.tile = some t₂ →
      s₁.args = s₂.args → s₁.params = s₂.params → t₁.rows = t₂.rows → t₁.cols = t₂.cols → t₁.cfg = t₂.cfg →
      s₁.args.row < t₁.rows → s₁.args.col < t₁.cols →
      t₁.lane s₁.args.row s₁.args.col = t₂.lane s₁.args.row s₁.args.col →
      ∃ (u₁ u₂ : State) (t₁' t₂' : Tile), exec .step s₁ = .next u₁ ∧ exec .step s₂ = .next u₂
        ∧ u₁.tile = some t₁' ∧ u₂.tile = some t₂' ∧ u₁.result = u₂.result
        ∧ t₁'.lane s₁.args.row s₁.args.col = t₂'.lane s₁.args.row s₁.args.col

/-- R280, R281: one push is one shift by one place, the oldest slot leaving and the newest entering at slot 0; a line of no
slots passes its input through. -/
def Obligations.PushIsAStrictShift : Prop :=
  (∀ (line : List Slot) (x : Slot), push line x = refPush line x)
  ∧ (∀ (line : List MulSlot) (x : MulSlot), push line x = refPush line x)
  ∧ ∀ x : Slot, push [] x = (x, [])

/-- R282 (the spec's inference): a line of n slots, the MUL line as the four others, returns first its content, oldest slot
first, and from the n-th push on what was pushed n pushes earlier. -/
def Obligations.APairLeavesALineAfterItsLength : Prop :=
  (∀ (line xs : List Slot),
    (pushAll line xs).1.length = xs.length ∧ (pushAll line xs).2.length = line.length
    ∧ ∀ n : Nat, n < xs.length →
        (pushAll line xs).1[n]? = if n < line.length then line.reverse[n]? else xs[n - line.length]?)
  ∧ ∀ (line xs : List MulSlot),
    (pushAll line xs).1.length = xs.length ∧ (pushAll line xs).2.length = line.length
    ∧ ∀ n : Nat, n < xs.length →
        (pushAll line xs).1[n]? = if n < line.length then line.reverse[n]? else xs[n - line.length]?

/-- R296: after a RESET, one valid STEP on a lane and then bubbles give `out_valid` on STEP L of that lane only, and every
other lane stays as it was. -/
def Obligations.ThePipelineFills : Prop :=
  ∀ (s : State) (t : Tile) (r c : Nat) (x : LaneInput) (bubbles : List LaneInput), s.inv → s.tile = some t →
    r < t.rows → c < t.cols → x.iv = true → (∀ b ∈ bubbles, b.iv = false) →
    ∃ (s₀ u : State) (t₀ t' : Tile) (outs : List (Option Slot)),
      exec .reset s = .next s₀ ∧ s₀.tile = some t₀ ∧ stepCommands r c (x :: bubbles) s₀ = some (u, outs)
      ∧ outs.length = bubbles.length + 1
      ∧ (∀ n : Nat, n < outs.length → ∃ d : F32, outs[n]? = some (some ⟨d, decide (n = t.cfg.totalLat)⟩))
      ∧ u.tile = some t'
      ∧ ∀ r' c' : Nat, r' < t.rows → c' < t.cols → (r', c') ≠ (r, c) → t'.lane r' c' = t₀.lane r' c'

/-- R297 (the spec's inference), for both values of `ADDEND_ALIGN`: after a RESET and any STEPs on one lane, each STEP's
`out_valid` is the `input_valid` of the STEP L earlier, a valid `out` is the accumulator of `lat_acc + lat_rnd + lat_sat`
STEPs earlier through rounding and saturation, the accumulator is the fold of the contributions, the counter counts them up
to `CNT_MAX`, and `cycle` counts the STEPs. -/
def Obligations.TheTimingLaw : Prop :=
  ∀ (s : State) (t : Tile) (r c : Nat) (xs : List LaneInput), s.inv → s.tile = some t → r < t.rows → c < t.cols →
    ∃ (s₀ u : State) (t' : Tile) (outs : List (Option Slot)),
      exec .reset s = .next s₀ ∧ stepCommands r c xs s₀ = some (u, outs) ∧ outs.length = xs.length
      ∧ (∀ n : Nat, n < xs.length → ∃ o : Slot, outs[n]? = some (some o)
          ∧ o.v = validBefore xs t.cfg.totalLat n
          ∧ (o.v = true → o.d = postStages s.params t.cfg
              (accAfter s.params t.cfg xs (n + 1 - (t.cfg.latAcc + t.cfg.latRnd + t.cfg.latSat)))))
      ∧ u.tile = some t' ∧ t'.cycle = xs.length
      ∧ (t'.lane r c).acc = accAfter s.params t.cfg xs xs.length
      ∧ (t'.lane r c).cnt
          = min ((List.range xs.length).countP fun n => validBefore xs (t.cfg.latMul + t.cfg.latAdd) n) s.params.cntMax

/-! ### Rules over all instructions -/

/-- R38, R39, R44, R80 (collected): the configuration of a LIVE tile never changes; `cycle` changes by RESET, STEP and GEMM
only, by one for a STEP that succeeds; a tile appears by a successful INIT and disappears by FREE only; a micro-operation of
the slice touches neither tile nor memory nor a command's result. -/
def Obligations.OnlyTheLifecycleCommandsCreateAndDestroy : Prop :=
  ∀ (i : Instr) (s u : State), exec i s = .next u →
    (∀ t t' : Tile, s.tile = some t → u.tile = some t' →
      t'.rows = t.rows ∧ t'.cols = t.cols ∧ t'.depth = t.depth ∧ t'.cfg = t.cfg ∧ t'.fmt = t.fmt
      ∧ (t'.cycle ≠ t.cycle → i = .reset ∨ i = .step ∨ i = .gemm)
      ∧ (i = .step → t'.cycle = t.cycle + if u.result.status = some .ok then 1 else 0))
    ∧ (s.tile = none → u.tile ≠ none → i = .init ∧ u.result.status = some .ok)
    ∧ (s.tile ≠ none → u.tile = none → i = .free)
    ∧ (i.opClass ≠ none → u.tile = s.tile ∧ u.mem = s.mem ∧ u.result = s.result)
    ∧ u.params = s.params

/-- R80, R81: the slice and the commands INIT, RESET, FREE and STEP neither read nor write memory. -/
def Obligations.OnlyGemmReachesMemory : Prop :=
  ∀ (i : Instr) (s : State) (m : Memory), i ≠ .gemm →
    match exec i s with
    | .next t => t.mem = s.mem ∧ exec i { s with mem := m } = .next { t with mem := m }
    | .fault _ => False
    | .refused r => exec i { s with mem := m } = .refused r

/-- R362: a command that returns CONFIG, ALLOC or BOUNDS has had no effect but that status, and yields no output. -/
def Obligations.AFailingCommandChangesNothing : Prop :=
  ∀ (i : Instr) (s t : State), i.opClass = none → exec i s = .next t →
    (t.result.status = some .config ∨ t.result.status = some .alloc ∨ t.result.status = some .bounds) →
    t = { s with result := ⟨t.result.status, none⟩ }

/-! ### GEMM -/

/-- R321, R355 (the order of the check is the spec's decision D14): with a stride below its dimension GEMM returns BOUNDS,
and neither the tile nor a byte of memory changes. -/
def Obligations.GemmChecksTheStridesFirst : Prop :=
  ∀ (s : State) (t : Tile) (g : GemmArrays), s.inv → s.tile = some t → s.args.offers g → g.containIndices t →
    g.separate t → ¬ g.stridesLegal t → exec .gemm s = .next { s with result := ⟨some .bounds, none⟩ }

/-- R85, R88, R372 (the refusals are the spec's decision D25, U6 and U7): GEMM is refused where a required array is absent,
where an array is too short for its indices, and where DST shares an element with an input. The refusals come before the
stride check and judge the arrays by the strides as offered, which is read from R361 by inference (log entry 20). -/
def Obligations.GemmRefusesBadArrays : Prop :=
  ∀ (s : State) (t : Tile), s.inv → s.tile = some t →
    ((s.args.lhs = none ∨ s.args.rhs = none ∨ s.args.dst = none) → exec .gemm s = .refused .arrayAbsent)
    ∧ ∀ g : GemmArrays, s.args.offers g →
        (¬ g.containIndices t → exec .gemm s = .refused .arrayTooShort)
        ∧ (g.containIndices t → ¬ g.separate t → exec .gemm s = .refused .arrayOverlap)

/-- R330 (the spec's inference): a GEMM with legal strides and proper arrays completes with OK; `cycle` is R·C·(K + L + 1),
every counter min(K, CNT_MAX), every validity bit 0, no sequencer state is left, and nothing but tile, memory and result
changes. -/
def Obligations.GemmCompletesWithThePostState : Prop :=
  ∀ (s : State) (t : Tile) (g : GemmArrays), s.inv → s.tile = some t → s.args.offers g → g.containIndices t →
    g.separate t → g.stridesLegal t →
    ∃ (m : Memory) (t' : Tile),
      exec .gemm s = .next { s with tile := some t', mem := m, result := ⟨some .ok, none⟩ }
      ∧ t'.rows = t.rows ∧ t'.cols = t.cols ∧ t'.depth = t.depth ∧ t'.cfg = t.cfg ∧ t'.fmt = t.fmt
      ∧ t'.cycle = t.rows * t.cols * (t.depth + t.cfg.totalLat + 1) ∧ t'.seq = none
      ∧ t'.lanes.length = t.rows * t.cols
      ∧ ∀ l ∈ t'.lanes, l.cnt = min t.depth s.params.cntMax ∧ ∀ (st : Stage), ∀ x ∈ l.line st, x.v = false

/-- R331, R332 (the spec's inferences): after such a GEMM each lane's accumulator is the left-to-right sum of the fetched
products, and its element of DST is that sum through rounding and saturation. -/
def Obligations.GemmWritesTheMatrixProduct : Prop :=
  ∀ (s : State) (t : Tile) (g : GemmArrays), s.inv → s.tile = some t → s.args.offers g → g.containIndices t →
    g.separate t → g.stridesLegal t →
    ∃ (u : State) (t' : Tile), exec .gemm s = .next u ∧ u.tile = some t'
      ∧ ∀ i j : Nat, i < t.rows → j < t.cols →
          (t'.lane i j).acc = gemmSum s.params s.mem g t i j
          ∧ u.mem.readElem (dstElem g i j) = postStages s.params t.cfg (gemmSum s.params s.mem g t i j)

/-- R85, R329: such a GEMM writes no byte outside the elements `i·ldd + j` of DST; padding is not written. The byte places
of an element are the model's (log entry 19). -/
def Obligations.GemmWritesNothingOutsideDst : Prop :=
  ∀ (s : State) (t : Tile) (g : GemmArrays), s.inv → s.tile = some t → s.args.offers g → g.containIndices t →
    g.separate t → g.stridesLegal t →
    ∃ u : State, exec .gemm s = .next u
      ∧ ∀ a : Nat,
          (∀ i j b : Nat, i < t.rows → j < t.cols → b < 4 → a ≠ 4 * (g.dst.base + (i * g.ldd + j)) + b) →
          u.mem.read a = s.mem.read a

/-- R322 (the spec's inference): the outcome of a GEMM does not depend on the contents of the tile before it. -/
def Obligations.GemmForgetsThePriorTile : Prop :=
  ∀ (s : State) (t₁ t₂ : Tile) (g : GemmArrays), t₁.wf s.params → t₂.wf s.params → t₁.rows = t₂.rows →
    t₁.cols = t₂.cols → t₁.depth = t₂.depth → t₁.cfg = t₂.cfg → t₁.fmt = t₂.fmt → s.args.offers g →
    g.containIndices t₁ → g.separate t₁ → g.stridesLegal t₁ →
    ∃ u : State, exec .gemm { s with tile := some t₁ } = .next u ∧ exec .gemm { s with tile := some t₂ } = .next u

/-- R323: the taps of a GEMM start at (MAIN, 0, 0, 0), each is followed by the one that the next-state function gives, the
last by none; their number is R·C·(K + L + 1); each lane receives the taps k = 0 … K − 1 and then L + 1 bubbles. They are
what GEMM runs, one STEP each. -/
def Obligations.TheTapsFollowTheSequencer : Prop :=
  (∀ rows cols depth lat : Nat, 1 ≤ rows → 1 ≤ cols → 1 ≤ depth →
    (gemmTaps rows cols depth lat)[0]? = some ⟨.main, 0, 0, 0⟩
    ∧ (gemmTaps rows cols depth lat).length = rows * cols * (depth + lat + 1)
    ∧ (∀ (n : Nat) (q : SeqPos), (gemmTaps rows cols depth lat)[n]? = some q →
        (gemmTaps rows cols depth lat)[n + 1]? = seqNext rows cols depth lat q)
    ∧ ∀ i j : Nat, i < rows → j < cols →
        (gemmTaps rows cols depth lat).filter (fun q => decide (q.i = i ∧ q.j = j))
          = (List.range depth).map (fun k => ⟨.main, k, i, j⟩) ++ (List.range (lat + 1)).map (fun d => ⟨.drain, d, i, j⟩))
  ∧ ∀ (p : Params) (m : Memory) (g : GemmArrays) (t : Tile),
      (gemmRun p m g t).lanes
        = ((gemmTaps t.rows t.cols t.depth t.cfg.totalLat).foldl
            (fun v q => (tileStep p q.i q.j (tapInput m g q) v).1) t.cleared).lanes

/-- R331 (b), R398 (the spec's inferences, under `ADDEND_ALIGN` = `AT_ADD_INPUT`): with `lat_mul` ≥ 1 a bias changes nothing
of what GEMM leaves: without it GEMM leaves the same state, but for the bias on the command port itself. -/
def Obligations.TheBiasIsLostBehindAMultiplyLatency : Prop :=
  ∀ (s : State) (t : Tile) (g : GemmArrays), s.inv → s.tile = some t → s.args.offers g → g.containIndices t →
    g.separate t → g.stridesLegal t → 1 ≤ t.cfg.latMul → s.params.addendAlign = .atAddInput →
    ∃ u v : State, exec .gemm s = .next u ∧ exec .gemm { s with args := { s.args with bias := none } } = .next v
      ∧ u = { v with args := s.args }

/-! ### The invariant -/

/-- Every step keeps the invariant (R39, R40, R42, R43, R48, R261, R351): the memory in canonical form, a LIVE tile with legal
dimensions, R·C lanes, lines of the configured lengths, counters within `CNT_MAX` and no sequencer state, and a STEP output
with the status OK only; and no step writes a parameter. -/
def Obligations.EveryStepKeepsTheInvariant : Prop :=
  ∀ s t : State, s.inv → step s = .next t → t.inv ∧ t.params = s.params

/-- R51 (the spec's inference): after reset the handle is UNALLOCATED, nothing is in progress, and the invariant holds. -/
def Obligations.TheResetStateIsGood : Prop :=
  State.reset.inv ∧ State.reset.tile = none ∧ State.reset.activity = .idle ∧ Sys2Proof.core.reset = State.reset

/-! ### Histories -/

/-- R47, R330 (the phase is the spec's decision D28; log entry 23): along a run of the machine every lane has a phase. RESET and
a successful INIT return it to Idle; a STEP on the lane gives Valid or Filling by its `out_valid` once a valid input has come;
a successful GEMM leaves Filling; a failing command, a STEP on another lane and a micro-operation leave the phase. A lane that
is Idle after a run from an UNALLOCATED handle holds +0.0, no count and no valid slot. -/
def Obligations.TheLanePhaseFollowsTheRun : Prop :=
  (∀ (r c : Nat) (s u : State) (h : LaneHistory), s.activity = .commanded 1 → step s = .next u →
    lanePhase (stepHistory r c s h) = .idle)
  ∧ (∀ (r c : Nat) (s u : State) (h : LaneHistory), s.activity = .commanded 0 → step s = .next u →
    lanePhase (stepHistory r c s h) = if u.result.status = some .ok then .idle else lanePhase h)
  ∧ (∀ (r c : Nat) (s u : State) (h : LaneHistory), s.activity = .commanded 3 → step s = .next u →
    if s.args.row = r ∧ s.args.col = c ∧ u.result.status = some .ok then
      ∃ out : Slot, u.result.out = some out ∧ lanePhase (stepHistory r c s h) =
        if s.args.inputValid = false ∧ ∀ e ∈ h, e.1 = false then .idle else if out.v then .valid else .filling
    else stepHistory r c s h = h)
  ∧ (∀ (s : State) (t : Tile) (g : GemmArrays), s.inv → s.tile = some t → s.args.offers g → g.containIndices t →
    g.separate t → g.stridesLegal t → s.activity = .commanded 4 →
    ∃ u : State, step s = .next u ∧ ∀ (r c : Nat) (h : LaneHistory), r < t.rows → c < t.cols →
      lanePhase (stepHistory r c s h) = .filling)
  ∧ (∀ (r c : Nat) (s : State) (op : OpClass) (h : LaneHistory), s.activity = .evaluating op → stepHistory r c s h = h)
  ∧ ∀ (r c n : Nat) (s u : State) (t : Tile), s.inv → s.tile = none → runSteps n s = .next u → u.tile = some t →
      r < t.rows → c < t.cols → phaseAfter r c n s = .idle →
      (t.lane r c).acc = F32.posZero ∧ (t.lane r c).cnt = 0
        ∧ ∀ (st : Stage), ∀ x ∈ (t.lane r c).line st, x.v = false

/-- R96 with R91 and R324 to R329 (the spec's inference): the event history of a GEMM that passes its checks. Replayed from the
cleared tile, its events give the memory and the tile that GEMM leaves, and every STEP's output; its reads are of the memory
before; its STEPs are those of the taps in order; the reads of a main tap come directly before its STEP; LHS and RHS are read
K·R·C times each, BIAS R·C times where it is given; the writes are R·C, come last, are row-major, and each writes the lane's
most recent valid output. A GEMM that fails its stride check has no event. -/
def Obligations.TheEventHistoryOfAGemm : Prop :=
  ∀ (s : State) (t : Tile) (g : GemmArrays), s.inv → s.tile = some t → s.args.offers g → g.containIndices t →
    g.separate t →
    (¬ g.stridesLegal t → gemmHistory s = [])
    ∧ (g.stridesLegal t → ∃ (u : State) (t' : Tile), exec .gemm s = .next u ∧ u.tile = some t'
      ∧ (gemmHistory s).foldl (GemmEvent.apply s.params g) (s.mem, t.cleared) = (u.mem, t')
      ∧ (∀ (pre post : List GemmEvent) (i j : Nat) (x : LaneInput) (out : Slot),
          gemmHistory s = pre ++ .step i j x out :: post →
          out = (tileStep s.params i j x (pre.foldl (GemmEvent.apply s.params g) (s.mem, t.cleared)).2).2
          ∧ (x.iv = true → ∃ (k : Nat) (before : List GemmEvent), k < t.depth ∧ pre = before ++ readsOf g k i j x))
      ∧ (∀ (idx : Nat) (v : F32),
          (.read .lhs idx v ∈ gemmHistory s → v = memRead s.mem g.lhs idx)
          ∧ (.read .rhs idx v ∈ gemmHistory s → v = memRead s.mem g.rhs idx)
          ∧ (.read .bias idx v ∈ gemmHistory s → ∃ b : ArrayRef, g.bias = some b ∧ v = memRead s.mem b idx))
      ∧ (gemmHistory s).filterMap GemmEvent.stepOf
          = (gemmTaps t.rows t.cols t.depth t.cfg.totalLat).map (fun q => (q.i, q.j, tapInput s.mem g q))
      ∧ (gemmHistory s).countP (GemmEvent.reads .lhs) = t.depth * t.rows * t.cols
      ∧ (gemmHistory s).countP (GemmEvent.reads .rhs) = t.depth * t.rows * t.cols
      ∧ (gemmHistory s).countP (GemmEvent.reads .bias) = (if g.bias = none then 0 else t.rows * t.cols)
      ∧ (∃ before writes : List GemmEvent, gemmHistory s = before ++ writes ∧ (∀ e ∈ before, e.writes = false)
          ∧ (∀ e ∈ writes, e.writes = true) ∧ writes.length = t.rows * t.cols)
      ∧ (gemmHistory s).filterMap GemmEvent.writeOf
          = (List.range t.rows).flatMap (fun i => (List.range t.cols).map (fun j => i * g.ldd + j))
      ∧ ∀ (i j : Nat) (v : F32), i < t.rows → j < t.cols → .write (i * g.ldd + j) v ∈ gemmHistory s →
          ((gemmHistory s).filterMap (GemmEvent.validOut i j)).getLast? = some v)
end

