-- ==== Sys2Proof/Laws/State.lean ====
section
/-! SUPPORT. One lemma per field per update, true by rfl, so that no proof unfolds a record update. -/

namespace Sys2Proof.Machine

@[simp] theorem State.withNodes_params (s : State) (n : Nodes) : (s.withNodes n).params = s.params := rfl
@[simp] theorem State.withNodes_requests (s : State) (n : Nodes) : (s.withNodes n).requests = s.requests := rfl
@[simp] theorem State.withNodes_activity (s : State) (n : Nodes) : (s.withNodes n).activity = s.activity := rfl
@[simp] theorem State.withNodes_ports (s : State) (n : Nodes) : (s.withNodes n).ports = s.ports := rfl
@[simp] theorem State.withNodes_ctl (s : State) (n : Nodes) : (s.withNodes n).ctl = s.ctl := rfl
@[simp] theorem State.withNodes_nodes (s : State) (n : Nodes) : (s.withNodes n).nodes = n := rfl
@[simp] theorem State.withNodes_p (s : State) (n : Nodes) : (s.withNodes n).p = s.p := rfl
@[simp] theorem State.withNodes_args (s : State) (n : Nodes) : (s.withNodes n).args = s.args := rfl
@[simp] theorem State.withNodes_result (s : State) (n : Nodes) : (s.withNodes n).result = s.result := rfl
@[simp] theorem State.withNodes_tile (s : State) (n : Nodes) : (s.withNodes n).tile = s.tile := rfl
@[simp] theorem State.withNodes_mem (s : State) (n : Nodes) : (s.withNodes n).mem = s.mem := rfl

@[simp] theorem State.withTile_params (s : State) (t : Option Tile) : (s.withTile t).params = s.params := rfl
@[simp] theorem State.withTile_requests (s : State) (t : Option Tile) : (s.withTile t).requests = s.requests := rfl
@[simp] theorem State.withTile_activity (s : State) (t : Option Tile) : (s.withTile t).activity = s.activity := rfl
@[simp] theorem State.withTile_ports (s : State) (t : Option Tile) : (s.withTile t).ports = s.ports := rfl
@[simp] theorem State.withTile_ctl (s : State) (t : Option Tile) : (s.withTile t).ctl = s.ctl := rfl
@[simp] theorem State.withTile_nodes (s : State) (t : Option Tile) : (s.withTile t).nodes = s.nodes := rfl
@[simp] theorem State.withTile_p (s : State) (t : Option Tile) : (s.withTile t).p = s.p := rfl
@[simp] theorem State.withTile_args (s : State) (t : Option Tile) : (s.withTile t).args = s.args := rfl
@[simp] theorem State.withTile_result (s : State) (t : Option Tile) : (s.withTile t).result = s.result := rfl
@[simp] theorem State.withTile_tile (s : State) (t : Option Tile) : (s.withTile t).tile = t := rfl
@[simp] theorem State.withTile_mem (s : State) (t : Option Tile) : (s.withTile t).mem = s.mem := rfl

@[simp] theorem State.withMem_params (s : State) (m : Memory) : (s.withMem m).params = s.params := rfl
@[simp] theorem State.withMem_requests (s : State) (m : Memory) : (s.withMem m).requests = s.requests := rfl
@[simp] theorem State.withMem_activity (s : State) (m : Memory) : (s.withMem m).activity = s.activity := rfl
@[simp] theorem State.withMem_ports (s : State) (m : Memory) : (s.withMem m).ports = s.ports := rfl
@[simp] theorem State.withMem_ctl (s : State) (m : Memory) : (s.withMem m).ctl = s.ctl := rfl
@[simp] theorem State.withMem_nodes (s : State) (m : Memory) : (s.withMem m).nodes = s.nodes := rfl
@[simp] theorem State.withMem_p (s : State) (m : Memory) : (s.withMem m).p = s.p := rfl
@[simp] theorem State.withMem_args (s : State) (m : Memory) : (s.withMem m).args = s.args := rfl
@[simp] theorem State.withMem_result (s : State) (m : Memory) : (s.withMem m).result = s.result := rfl
@[simp] theorem State.withMem_tile (s : State) (m : Memory) : (s.withMem m).tile = s.tile := rfl
@[simp] theorem State.withMem_mem (s : State) (m : Memory) : (s.withMem m).mem = m := rfl

@[simp] theorem State.withAlu_params (s : State) (r : Int) : (s.withAlu r).params = s.params := rfl
@[simp] theorem State.withAlu_requests (s : State) (r : Int) : (s.withAlu r).requests = s.requests := rfl
@[simp] theorem State.withAlu_activity (s : State) (r : Int) : (s.withAlu r).activity = s.activity := rfl
@[simp] theorem State.withAlu_ports (s : State) (r : Int) : (s.withAlu r).ports = s.ports := rfl
@[simp] theorem State.withAlu_ctl (s : State) (r : Int) : (s.withAlu r).ctl = s.ctl := rfl
@[simp] theorem State.withAlu_nodes (s : State) (r : Int) : (s.withAlu r).nodes = { s.nodes with r := r } := rfl
@[simp] theorem State.withAlu_p (s : State) (r : Int) : (s.withAlu r).p = low48 r := rfl
@[simp] theorem State.withAlu_args (s : State) (r : Int) : (s.withAlu r).args = s.args := rfl
@[simp] theorem State.withAlu_result (s : State) (r : Int) : (s.withAlu r).result = s.result := rfl
@[simp] theorem State.withAlu_tile (s : State) (r : Int) : (s.withAlu r).tile = s.tile := rfl
@[simp] theorem State.withAlu_mem (s : State) (r : Int) : (s.withAlu r).mem = s.mem := rfl

@[simp] theorem State.withStepArgs_params (s : State) (r c : Nat) (x : LaneInput) : (s.withStepArgs r c x).params = s.params := rfl
@[simp] theorem State.withStepArgs_requests (s : State) (r c : Nat) (x : LaneInput) : (s.withStepArgs r c x).requests = s.requests := rfl
@[simp] theorem State.withStepArgs_activity (s : State) (r c : Nat) (x : LaneInput) : (s.withStepArgs r c x).activity = s.activity := rfl
@[simp] theorem State.withStepArgs_ports (s : State) (r c : Nat) (x : LaneInput) : (s.withStepArgs r c x).ports = s.ports := rfl
@[simp] theorem State.withStepArgs_ctl (s : State) (r c : Nat) (x : LaneInput) : (s.withStepArgs r c x).ctl = s.ctl := rfl
@[simp] theorem State.withStepArgs_nodes (s : State) (r c : Nat) (x : LaneInput) : (s.withStepArgs r c x).nodes = s.nodes := rfl
@[simp] theorem State.withStepArgs_p (s : State) (r c : Nat) (x : LaneInput) : (s.withStepArgs r c x).p = s.p := rfl
@[simp] theorem State.withStepArgs_args (s : State) (r c : Nat) (x : LaneInput) : (s.withStepArgs r c x).args = { s.args with row := r, col := c, inputValid := x.iv, a := x.a, b := x.b, addend := x.addend } := rfl
@[simp] theorem State.withStepArgs_result (s : State) (r c : Nat) (x : LaneInput) : (s.withStepArgs r c x).result = s.result := rfl
@[simp] theorem State.withStepArgs_tile (s : State) (r c : Nat) (x : LaneInput) : (s.withStepArgs r c x).tile = s.tile := rfl
@[simp] theorem State.withStepArgs_mem (s : State) (r c : Nat) (x : LaneInput) : (s.withStepArgs r c x).mem = s.mem := rfl

@[simp] theorem returnOk_params (s : State) : (returnOk s).params = s.params := rfl
@[simp] theorem returnOk_requests (s : State) : (returnOk s).requests = s.requests := rfl
@[simp] theorem returnOk_activity (s : State) : (returnOk s).activity = s.activity := rfl
@[simp] theorem returnOk_ports (s : State) : (returnOk s).ports = s.ports := rfl
@[simp] theorem returnOk_ctl (s : State) : (returnOk s).ctl = s.ctl := rfl
@[simp] theorem returnOk_nodes (s : State) : (returnOk s).nodes = s.nodes := rfl
@[simp] theorem returnOk_p (s : State) : (returnOk s).p = s.p := rfl
@[simp] theorem returnOk_args (s : State) : (returnOk s).args = s.args := rfl
@[simp] theorem returnOk_result (s : State) : (returnOk s).result = ⟨some .ok, none⟩ := rfl
@[simp] theorem returnOk_tile (s : State) : (returnOk s).tile = s.tile := rfl
@[simp] theorem returnOk_mem (s : State) : (returnOk s).mem = s.mem := rfl

@[simp] theorem returnOut_params (s : State) (o : Slot) : (returnOut s o).params = s.params := rfl
@[simp] theorem returnOut_requests (s : State) (o : Slot) : (returnOut s o).requests = s.requests := rfl
@[simp] theorem returnOut_activity (s : State) (o : Slot) : (returnOut s o).activity = s.activity := rfl
@[simp] theorem returnOut_ports (s : State) (o : Slot) : (returnOut s o).ports = s.ports := rfl
@[simp] theorem returnOut_ctl (s : State) (o : Slot) : (returnOut s o).ctl = s.ctl := rfl
@[simp] theorem returnOut_nodes (s : State) (o : Slot) : (returnOut s o).nodes = s.nodes := rfl
@[simp] theorem returnOut_p (s : State) (o : Slot) : (returnOut s o).p = s.p := rfl
@[simp] theorem returnOut_args (s : State) (o : Slot) : (returnOut s o).args = s.args := rfl
@[simp] theorem returnOut_result (s : State) (o : Slot) : (returnOut s o).result = ⟨some .ok, some o⟩ := rfl
@[simp] theorem returnOut_tile (s : State) (o : Slot) : (returnOut s o).tile = s.tile := rfl
@[simp] theorem returnOut_mem (s : State) (o : Slot) : (returnOut s o).mem = s.mem := rfl

@[simp] theorem returnErr_params (s : State) (st : Status) : (returnErr s st).params = s.params := rfl
@[simp] theorem returnErr_requests (s : State) (st : Status) : (returnErr s st).requests = s.requests := rfl
@[simp] theorem returnErr_activity (s : State) (st : Status) : (returnErr s st).activity = s.activity := rfl
@[simp] theorem returnErr_ports (s : State) (st : Status) : (returnErr s st).ports = s.ports := rfl
@[simp] theorem returnErr_ctl (s : State) (st : Status) : (returnErr s st).ctl = s.ctl := rfl
@[simp] theorem returnErr_nodes (s : State) (st : Status) : (returnErr s st).nodes = s.nodes := rfl
@[simp] theorem returnErr_p (s : State) (st : Status) : (returnErr s st).p = s.p := rfl
@[simp] theorem returnErr_args (s : State) (st : Status) : (returnErr s st).args = s.args := rfl
@[simp] theorem returnErr_result (s : State) (st : Status) : (returnErr s st).result = ⟨some st, none⟩ := rfl
@[simp] theorem returnErr_tile (s : State) (st : Status) : (returnErr s st).tile = s.tile := rfl
@[simp] theorem returnErr_mem (s : State) (st : Status) : (returnErr s st).mem = s.mem := rfl

@[simp] theorem returnNone_params (s : State) : (returnNone s).params = s.params := rfl
@[simp] theorem returnNone_requests (s : State) : (returnNone s).requests = s.requests := rfl
@[simp] theorem returnNone_activity (s : State) : (returnNone s).activity = s.activity := rfl
@[simp] theorem returnNone_ports (s : State) : (returnNone s).ports = s.ports := rfl
@[simp] theorem returnNone_ctl (s : State) : (returnNone s).ctl = s.ctl := rfl
@[simp] theorem returnNone_nodes (s : State) : (returnNone s).nodes = s.nodes := rfl
@[simp] theorem returnNone_p (s : State) : (returnNone s).p = s.p := rfl
@[simp] theorem returnNone_args (s : State) : (returnNone s).args = s.args := rfl
@[simp] theorem returnNone_result (s : State) : (returnNone s).result = ⟨none, none⟩ := rfl
@[simp] theorem returnNone_tile (s : State) : (returnNone s).tile = s.tile := rfl
@[simp] theorem returnNone_mem (s : State) : (returnNone s).mem = s.mem := rfl

@[simp] theorem Tile.withLane_rows (t : Tile) (r c : Nat) (l : Lane) : (t.withLane r c l).rows = t.rows := rfl
@[simp] theorem Tile.withLane_cols (t : Tile) (r c : Nat) (l : Lane) : (t.withLane r c l).cols = t.cols := rfl
@[simp] theorem Tile.withLane_depth (t : Tile) (r c : Nat) (l : Lane) : (t.withLane r c l).depth = t.depth := rfl
@[simp] theorem Tile.withLane_cfg (t : Tile) (r c : Nat) (l : Lane) : (t.withLane r c l).cfg = t.cfg := rfl
@[simp] theorem Tile.withLane_fmt (t : Tile) (r c : Nat) (l : Lane) : (t.withLane r c l).fmt = t.fmt := rfl
@[simp] theorem Tile.withLane_lanes (t : Tile) (r c : Nat) (l : Lane) : (t.withLane r c l).lanes = t.lanes.set (r * t.cols + c) l := rfl
@[simp] theorem Tile.withLane_cycle (t : Tile) (r c : Nat) (l : Lane) : (t.withLane r c l).cycle = t.cycle := rfl
@[simp] theorem Tile.withLane_seq (t : Tile) (r c : Nat) (l : Lane) : (t.withLane r c l).seq = t.seq := rfl

@[simp] theorem Tile.cleared_rows (t : Tile) : (t.cleared).rows = t.rows := rfl
@[simp] theorem Tile.cleared_cols (t : Tile) : (t.cleared).cols = t.cols := rfl
@[simp] theorem Tile.cleared_depth (t : Tile) : (t.cleared).depth = t.depth := rfl
@[simp] theorem Tile.cleared_cfg (t : Tile) : (t.cleared).cfg = t.cfg := rfl
@[simp] theorem Tile.cleared_fmt (t : Tile) : (t.cleared).fmt = t.fmt := rfl
@[simp] theorem Tile.cleared_lanes (t : Tile) : (t.cleared).lanes = t.lanes.map Lane.cleared := rfl
@[simp] theorem Tile.cleared_cycle (t : Tile) : (t.cleared).cycle = 0 := rfl
@[simp] theorem Tile.cleared_seq (t : Tile) : (t.cleared).seq = t.seq := rfl

@[simp] theorem Tile.fresh_rows (cfg : Cfg) (fmt : Fmt) (rows cols depth : Nat) :
    (Tile.fresh cfg fmt rows cols depth).rows = rows := rfl
@[simp] theorem Tile.fresh_cols (cfg : Cfg) (fmt : Fmt) (rows cols depth : Nat) :
    (Tile.fresh cfg fmt rows cols depth).cols = cols := rfl
@[simp] theorem Tile.fresh_depth (cfg : Cfg) (fmt : Fmt) (rows cols depth : Nat) :
    (Tile.fresh cfg fmt rows cols depth).depth = depth := rfl
@[simp] theorem Tile.fresh_cfg (cfg : Cfg) (fmt : Fmt) (rows cols depth : Nat) :
    (Tile.fresh cfg fmt rows cols depth).cfg = cfg := rfl
@[simp] theorem Tile.fresh_fmt (cfg : Cfg) (fmt : Fmt) (rows cols depth : Nat) :
    (Tile.fresh cfg fmt rows cols depth).fmt = fmt := rfl
@[simp] theorem Tile.fresh_lanes (cfg : Cfg) (fmt : Fmt) (rows cols depth : Nat) :
    (Tile.fresh cfg fmt rows cols depth).lanes = List.replicate (rows * cols) (Lane.fresh cfg) := rfl
@[simp] theorem Tile.fresh_cycle (cfg : Cfg) (fmt : Fmt) (rows cols depth : Nat) :
    (Tile.fresh cfg fmt rows cols depth).cycle = 0 := rfl
@[simp] theorem Tile.fresh_seq (cfg : Cfg) (fmt : Fmt) (rows cols depth : Nat) :
    (Tile.fresh cfg fmt rows cols depth).seq = none := rfl

/-- A state is the one whose fields it has. -/
theorem State.withNodes_self (s : State) : s.withNodes s.nodes = s := rfl

theorem State.withTile_self (s : State) : s.withTile s.tile = s := rfl

theorem State.withNodes_withNodes (s : State) (n n' : Nodes) : (s.withNodes n).withNodes n' = s.withNodes n' := rfl

theorem State.withTile_withTile (s : State) (t t' : Option Tile) : (s.withTile t).withTile t' = s.withTile t' := rfl

end Sys2Proof.Machine
end

