-- ==== Sys2Proof/Laws/Lane.lean ====
section
/-! SUPPORT. What the operations on delay lines, lanes and the grid do. -/

namespace Sys2Proof.Machine

/-! ### The delay line -/

@[simp] theorem push_nil (x : α) : push [] x = (x, []) := rfl

/-- Entering a line and leaving it in one list: the new entry in front, the oldest behind. -/
theorem push_split (line : List α) (x : α) : (push line x).2 ++ [(push line x).1] = x :: line := by
  cases line with
  | nil => rfl
  | cons y rest =>
    show x :: (y :: rest).dropLast ++ [(y :: rest).getLast _] = _
    rw [List.cons_append, List.dropLast_append_getLast]

/-- A push keeps the number of slots (R43). -/
@[simp] theorem push_length (line : List α) (x : α) : (push line x).2.length = line.length := by
  have h := congrArg List.length (push_split line x)
  simpa using h

/-- What stands in a line after a push was there before or is the new entry. -/
theorem mem_of_mem_push {line : List α} {x y : α} (h : y ∈ (push line x).2) : y = x ∨ y ∈ line := by
  have : y ∈ (push line x).2 ++ [(push line x).1] := List.mem_append_left _ h
  rw [push_split] at this
  simpa using this

/-- What leaves a line was there before or is the new entry. -/
theorem push_fst_mem (line : List α) (x : α) : (push line x).1 ∈ x :: line := by
  rw [← push_split]
  simp

/-! ### One lane -/

@[simp] theorem Lane.fresh_acc (cfg : Cfg) : (Lane.fresh cfg).acc = F32.posZero := rfl
@[simp] theorem Lane.fresh_cnt (cfg : Cfg) : (Lane.fresh cfg).cnt = 0 := rfl

/-- A fresh lane is well formed. -/
theorem Lane.fresh_wf (p : Params) (cfg : Cfg) : (Lane.fresh cfg).wf p cfg := by
  refine ⟨Nat.zero_le _, ?_, ?_, ?_, ?_, ?_, ?_⟩ <;> simp [Lane.fresh, MulSlot.zero]

/-- Clearing a well-formed lane gives the fresh lane of its configuration. -/
theorem Lane.cleared_eq_fresh {p : Params} {cfg : Cfg} {l : Lane} (h : l.wf p cfg) : l.cleared = Lane.fresh cfg := by
  obtain ⟨-, h1, h2, h3, h4, h5, -⟩ := h
  simp [Lane.cleared, Lane.fresh, List.map_const', h1, h2, h3, h4, h5]

@[simp] theorem Lane.cleared_cleared (l : Lane) : l.cleared.cleared = l.cleared := by
  simp [Lane.cleared, List.map_const']

/-- What the MUL line answers in one cycle (R287). -/
def mulPush (p : Params) (x : LaneInput) (l : Lane) : MulSlot × List MulSlot := push l.mulLine (mulEntry p x)

/-- What the ADD line answers in one cycle (R288). -/
def addPush (p : Params) (x : LaneInput) (l : Lane) : Slot × List Slot :=
  push l.addLine ⟨fadd p (mulPush p x l).1.d (meetingAddend p x (mulPush p x l).1), (mulPush p x l).1.v⟩

/-- The accumulator after one cycle (R289). -/
def accNext (p : Params) (x : LaneInput) (l : Lane) : F32 :=
  if (addPush p x l).1.v then fadd p l.acc (addPush p x l).1.d else l.acc

/-- What the ACC line answers in one cycle (R290). -/
def accPush (p : Params) (x : LaneInput) (l : Lane) : Slot × List Slot :=
  push l.accLine ⟨accNext p x l, (addPush p x l).1.v⟩

/-- What the RND line answers in one cycle (R291). -/
def rndPush (p : Params) (cfg : Cfg) (x : LaneInput) (l : Lane) : Slot × List Slot :=
  push l.rndLine ⟨roundStage p cfg (accPush p x l).1.d, (accPush p x l).1.v⟩

/-- What the SAT line answers in one cycle (R292). -/
def satPush (p : Params) (cfg : Cfg) (x : LaneInput) (l : Lane) : Slot × List Slot :=
  push l.satLine ⟨satStage cfg (rndPush p cfg x l).1.d, (rndPush p cfg x l).1.v⟩

/-- Everything one cycle of a lane does, stage by stage. -/
theorem laneStep_eq (p : Params) (cfg : Cfg) (x : LaneInput) (l : Lane) :
    laneStep p cfg x l =
      ({ acc := accNext p x l
         cnt := if (addPush p x l).1.v then min (l.cnt + 1) p.cntMax else l.cnt
         mulLine := (mulPush p x l).2
         addLine := (addPush p x l).2
         accLine := (accPush p x l).2
         rndLine := (rndPush p cfg x l).2
         satLine := (satPush p cfg x l).2 },
        (satPush p cfg x l).1) := rfl

/-- One cycle keeps a lane well formed. -/
theorem laneStep_wf {p : Params} {cfg : Cfg} {l : Lane} (h : l.wf p cfg) (x : LaneInput) :
    (laneStep p cfg x l).1.wf p cfg := by
  obtain ⟨h0, h1, h2, h3, h4, h5, h6⟩ := h
  rw [laneStep_eq]
  refine ⟨?_, ?_, ?_, ?_, ?_, ?_, fun hp m hm => ?_⟩
  · dsimp only
    split
    · exact Nat.min_le_right _ _
    · exact h0
  · simpa [mulPush] using h1
  · simpa [addPush] using h2
  · simpa [accPush] using h3
  · simpa [rndPush] using h4
  · simpa [satPush] using h5
  · rcases mem_of_mem_push hm with rfl | hm
    · simp [mulEntry, hp]
    · exact h6 hp m hm

/-! ### The grid -/

/-- The lane index of a coordinate in range lies in the grid. -/
theorem laneIndex_lt {rows cols r c : Nat} (hr : r < rows) (hc : c < cols) : r * cols + c < rows * cols := by
  calc r * cols + c < r * cols + cols := by omega
    _ = (r + 1) * cols := by ring
    _ ≤ rows * cols := Nat.mul_le_mul_right _ hr

/-- Two coordinates with columns in range have the same lane index only where they are the same. -/
theorem laneIndex_inj {cols r c r' c' : Nat} (hc : c < cols) (hc' : c' < cols)
    (h : r * cols + c = r' * cols + c') : r = r' ∧ c = c' := by
  have hpos : 0 < cols := by omega
  have hmod : c = c' := by
    have := congrArg (· % cols) h
    simpa [Nat.mul_add_mod_self_right, Nat.mod_eq_of_lt hc, Nat.mod_eq_of_lt hc', Nat.add_mod] using this
  subst hmod
  exact ⟨Nat.eq_of_mul_eq_mul_right hpos (by omega), rfl⟩

/-- The lane that was replaced, and every other lane, after a replacement. -/
theorem Tile.lane_withLane {t : Tile} {r c r' c' : Nat} (l : Lane) (hlen : t.lanes.length = t.rows * t.cols)
    (hr : r < t.rows) (hc : c < t.cols) (hc' : c' < t.cols) :
    (t.withLane r c l).lane r' c' = if r' = r ∧ c' = c then l else t.lane r' c' := by
  unfold Tile.lane
  simp only [Tile.withLane_lanes, Tile.withLane_cols, Tile.withLane_cfg, List.getD_eq_getElem?_getD, List.getElem?_set]
  by_cases h : r' = r ∧ c' = c
  · obtain ⟨rfl, rfl⟩ := h
    simp [hlen, laneIndex_lt hr hc]
  · have hne : ¬ (r * t.cols + c = r' * t.cols + c') := fun e => h (by
      obtain ⟨h1, h2⟩ := laneIndex_inj hc hc' e
      exact ⟨h1.symm, h2.symm⟩)
    rw [if_neg hne, if_neg h]

/-- A lane of a well-formed tile is well formed. -/
theorem Tile.lane_wf {p : Params} {t : Tile} (h : ∀ l ∈ t.lanes, l.wf p t.cfg) (r c : Nat) :
    (t.lane r c).wf p t.cfg := by
  unfold Tile.lane
  rw [List.getD_eq_getElem?_getD]
  cases hx : t.lanes[r * t.cols + c]? with
  | none => exact Lane.fresh_wf p t.cfg
  | some l => exact h l (List.mem_of_getElem? hx)

@[simp] theorem tileStep_rows (p : Params) (r c : Nat) (x : LaneInput) (t : Tile) :
    (tileStep p r c x t).1.rows = t.rows := rfl
@[simp] theorem tileStep_cols (p : Params) (r c : Nat) (x : LaneInput) (t : Tile) :
    (tileStep p r c x t).1.cols = t.cols := rfl
@[simp] theorem tileStep_depth (p : Params) (r c : Nat) (x : LaneInput) (t : Tile) :
    (tileStep p r c x t).1.depth = t.depth := rfl
@[simp] theorem tileStep_cfg (p : Params) (r c : Nat) (x : LaneInput) (t : Tile) :
    (tileStep p r c x t).1.cfg = t.cfg := rfl
@[simp] theorem tileStep_fmt (p : Params) (r c : Nat) (x : LaneInput) (t : Tile) :
    (tileStep p r c x t).1.fmt = t.fmt := rfl
@[simp] theorem tileStep_seq (p : Params) (r c : Nat) (x : LaneInput) (t : Tile) :
    (tileStep p r c x t).1.seq = t.seq := rfl
@[simp] theorem tileStep_cycle (p : Params) (r c : Nat) (x : LaneInput) (t : Tile) :
    (tileStep p r c x t).1.cycle = t.cycle + 1 := rfl
@[simp] theorem tileStep_lanes (p : Params) (r c : Nat) (x : LaneInput) (t : Tile) :
    (tileStep p r c x t).1.lanes = t.lanes.set (r * t.cols + c) (laneStep p t.cfg x (t.lane r c)).1 := rfl
@[simp] theorem tileStep_out (p : Params) (r c : Nat) (x : LaneInput) (t : Tile) :
    (tileStep p r c x t).2 = (laneStep p t.cfg x (t.lane r c)).2 := rfl

/-- The lanes after a STEP of one lane (R45): that lane has moved, every other stands. -/
theorem tileStep_lane {p : Params} {t : Tile} {r c r' c' : Nat} (x : LaneInput)
    (hlen : t.lanes.length = t.rows * t.cols) (hr : r < t.rows) (hc : c < t.cols) (hc' : c' < t.cols) :
    (tileStep p r c x t).1.lane r' c' =
      if r' = r ∧ c' = c then (laneStep p t.cfg x (t.lane r c)).1 else t.lane r' c' :=
  Tile.lane_withLane (t := t) _ hlen hr hc hc'

/-- A STEP of one lane keeps every lane well formed. -/
theorem tileStep_lanes_wf {p : Params} {t : Tile} (h : ∀ l ∈ t.lanes, l.wf p t.cfg) (r c : Nat) (x : LaneInput) :
    ∀ l ∈ (tileStep p r c x t).1.lanes, l.wf p t.cfg := by
  intro l hl
  rw [tileStep_lanes] at hl
  rcases List.mem_or_eq_of_mem_set hl with hl | rfl
  · exact h l hl
  · exact laneStep_wf (Tile.lane_wf h r c) x

/-- Clearing a well-formed tile gives the fresh tile of its configuration and dimensions. -/
theorem Tile.cleared_eq_fresh {p : Params} {t : Tile} (h : t.wf p) :
    t.cleared = Tile.fresh t.cfg t.fmt t.rows t.cols t.depth := by
  obtain ⟨-, -, -, -, hlen, hl, hs⟩ := h
  have : t.lanes.map Lane.cleared = List.replicate (t.rows * t.cols) (Lane.fresh t.cfg) := by
    refine List.eq_replicate_iff.2 ⟨by simp [hlen], fun b hb => ?_⟩
    obtain ⟨l, hl', rfl⟩ := List.mem_map.1 hb
    exact Lane.cleared_eq_fresh (hl l hl')
  simp [Tile.cleared, Tile.fresh, this, hs]

/-- A fresh tile with non-zero dimensions and the FP32 kind is well formed. -/
theorem Tile.fresh_wf {p : Params} {cfg : Cfg} {fmt : Fmt} {rows cols depth : Nat} (hr : rows ≠ 0) (hc : cols ≠ 0)
    (hd : depth ≠ 0) (hk : fmt.kind = .fp32) : (Tile.fresh cfg fmt rows cols depth).wf p := by
  refine ⟨Nat.pos_of_ne_zero hr, Nat.pos_of_ne_zero hc, Nat.pos_of_ne_zero hd, hk, by simp, fun l hl => ?_, rfl⟩
  rw [Tile.fresh_lanes] at hl
  rw [List.eq_of_mem_replicate hl]
  exact Lane.fresh_wf p cfg

end Sys2Proof.Machine
end

