-- ==== Sys2Proof/Laws/Memory.lean ====
section
/-! SUPPORT. What the memory operations do: a read after a write, the canonical form kept, equal memories from equal
reads. -/

namespace Sys2Proof.Machine

@[simp] theorem Memory.read_nil (a : Nat) : Memory.read [] a = Memory.unlisted := rfl

@[simp] theorem Memory.read_cons (b : Nat) (w : Byte) (m : Memory) (a : Nat) :
    Memory.read ((b, w) :: m) a = if a = b then w else Memory.read m a := rfl

theorem Memory.wf_nil : Memory.wf [] := ⟨List.Pairwise.nil, by simp⟩

theorem Memory.wf_cons {b : Nat} {w : Byte} {m : Memory} :
    Memory.wf ((b, w) :: m) ↔ (∀ c ∈ m, b < c.1) ∧ w ≠ Memory.unlisted ∧ Memory.wf m := by
  constructor
  · rintro ⟨h1, h2⟩
    rw [List.pairwise_cons] at h1
    exact ⟨h1.1, h2 _ (List.mem_cons_self), h1.2, fun c hc => h2 c (List.mem_cons_of_mem _ hc)⟩
  · rintro ⟨h1, h2, h3, h4⟩
    refine ⟨List.pairwise_cons.2 ⟨h1, h3⟩, fun c hc => ?_⟩
    rcases List.mem_cons.1 hc with rfl | hc
    · exact h2
    · exact h4 c hc

/-- Below every listed address a memory reads as unlisted. -/
theorem Memory.read_of_lt {m : Memory} {a : Nat} (h : ∀ c ∈ m, a < c.1) : Memory.read m a = Memory.unlisted := by
  induction m with
  | nil => rfl
  | cons c m ih =>
    obtain ⟨b, w⟩ := c
    have hb : a < b := h (b, w) List.mem_cons_self
    rw [Memory.read_cons, if_neg (Nat.ne_of_lt hb)]
    exact ih fun c hc => h c (List.mem_cons_of_mem _ hc)

/-- An address listed after a write was listed before or is the one written. -/
theorem Memory.mem_write {m : Memory} {a : Nat} {v : Byte} {c : Host.Cell} (h : c ∈ Memory.write m a v) :
    c ∈ m ∨ (c = (a, v) ∧ v ≠ Memory.unlisted) := by
  induction m with
  | nil =>
    unfold Memory.write at h
    split at h <;> simp_all
  | cons d m ih =>
    obtain ⟨b, w⟩ := d
    unfold Memory.write at h
    split at h
    · split at h
      · exact .inl h
      · rcases List.mem_cons.1 h with rfl | h
        · exact .inr ⟨rfl, by assumption⟩
        · exact .inl h
    · split at h
      · split at h
        · exact .inl (List.mem_cons_of_mem _ h)
        · rcases List.mem_cons.1 h with rfl | h
          · exact .inr ⟨rfl, by assumption⟩
          · exact .inl (List.mem_cons_of_mem _ h)
      · rcases List.mem_cons.1 h with rfl | h
        · exact .inl List.mem_cons_self
        · rcases ih h with h | h
          · exact .inl (List.mem_cons_of_mem _ h)
          · exact .inr h

/-- A write keeps the canonical form. -/
theorem Memory.write_wf {m : Memory} (h : Memory.wf m) (a : Nat) (v : Byte) : Memory.wf (Memory.write m a v) := by
  induction m with
  | nil =>
    unfold Memory.write
    split
    · exact h
    · exact Memory.wf_cons.2 ⟨by simp, by assumption, h⟩
  | cons d m ih =>
    obtain ⟨b, w⟩ := d
    obtain ⟨h1, h2, h3⟩ := Memory.wf_cons.1 h
    unfold Memory.write
    split
    · rename_i hab
      split
      · exact h
      · refine Memory.wf_cons.2 ⟨fun c hc => ?_, by assumption, h⟩
        rcases List.mem_cons.1 hc with rfl | hc
        · exact hab
        · exact Nat.lt_trans hab (h1 c hc)
    · split
      · rename_i hab
        subst hab
        split
        · exact h3
        · exact Memory.wf_cons.2 ⟨h1, by assumption, h3⟩
      · refine Memory.wf_cons.2 ⟨fun c hc => ?_, h2, ih h3⟩
        rcases Memory.mem_write hc with hc | ⟨rfl, -⟩
        · exact h1 c hc
        · show b < a
          omega

/-- A read after a write gives the value written at that address and the old byte elsewhere. -/
theorem Memory.read_write {m : Memory} (h : Memory.wf m) (a : Nat) (v : Byte) (x : Nat) :
    Memory.read (Memory.write m a v) x = if x = a then v else Memory.read m x := by
  induction m with
  | nil =>
    unfold Memory.write
    by_cases hv : v = Memory.unlisted
    · rw [if_pos hv, hv]
      split <;> rfl
    · rw [if_neg hv]
      rfl
  | cons d m ih =>
    obtain ⟨b, w⟩ := d
    obtain ⟨h1, h2, h3⟩ := Memory.wf_cons.1 h
    unfold Memory.write
    split
    · rename_i hab
      split
      · rename_i hv
        by_cases hx : x = a
        · subst hx
          rw [if_pos rfl, hv]
          refine Memory.read_of_lt fun c hc => ?_
          rcases List.mem_cons.1 hc with rfl | hc
          · exact hab
          · exact Nat.lt_trans hab (h1 c hc)
        · rw [if_neg hx]
      · rw [Memory.read_cons]
    · split
      · rename_i hab
        subst hab
        split
        · rename_i hv
          by_cases hx : x = a
          · subst hx
            rw [if_pos rfl, hv, Memory.read_of_lt h1]
          · rw [if_neg hx, Memory.read_cons, if_neg hx]
        · rw [Memory.read_cons]
          by_cases hx : x = a <;> simp [hx]
      · rename_i hlt hne
        rw [Memory.read_cons, ih h3, Memory.read_cons]
        by_cases hx : x = b
        · subst hx
          rw [if_pos rfl, if_neg (fun e => hne e.symm), if_pos rfl]
        · simp [hx]

theorem Memory.read_write_same {m : Memory} (h : Memory.wf m) (a : Nat) (v : Byte) :
    Memory.read (Memory.write m a v) a = v := by rw [Memory.read_write h, if_pos rfl]

theorem Memory.read_write_other {m : Memory} (h : Memory.wf m) {a x : Nat} (v : Byte) (hx : x ≠ a) :
    Memory.read (Memory.write m a v) x = Memory.read m x := by rw [Memory.read_write h, if_neg hx]

/-- Writing one element keeps the canonical form. -/
theorem Memory.writeElem_wf {m : Memory} (h : Memory.wf m) (e : Nat) (v : F32) : Memory.wf (m.writeElem e v) :=
  Memory.write_wf (Memory.write_wf (Memory.write_wf (Memory.write_wf h _ _) _ _) _ _) _ _

/-- The bytes after writing one element: its four bytes, and the old byte elsewhere. -/
theorem Memory.read_writeElem {m : Memory} (h : Memory.wf m) (e : Nat) (v : F32) (x : Nat) :
    (m.writeElem e v).read x =
      if x = 4 * e + 3 then v.extractLsb' 24 8 else if x = 4 * e + 2 then v.extractLsb' 16 8
      else if x = 4 * e + 1 then v.extractLsb' 8 8 else if x = 4 * e then v.extractLsb' 0 8 else m.read x := by
  unfold Memory.writeElem
  have h1 := Memory.write_wf h (4 * e) (v.extractLsb' 0 8)
  have h2 := Memory.write_wf h1 (4 * e + 1) (v.extractLsb' 8 8)
  have h3 := Memory.write_wf h2 (4 * e + 2) (v.extractLsb' 16 8)
  rw [Memory.read_write h3, Memory.read_write h2, Memory.read_write h1, Memory.read_write h]

/-- Writing one element leaves every byte outside its four alone. -/
theorem Memory.read_writeElem_outside {m : Memory} (h : Memory.wf m) (e : Nat) (v : F32) {x : Nat} (hx : x / 4 ≠ e) :
    (m.writeElem e v).read x = m.read x := by
  rw [Memory.read_writeElem h, if_neg (by omega), if_neg (by omega), if_neg (by omega), if_neg (by omega)]

/-- The element written reads back. -/
theorem Memory.readElem_writeElem_same {m : Memory} (h : Memory.wf m) (e : Nat) (v : F32) :
    (m.writeElem e v).readElem e = v := by
  unfold Memory.readElem
  simp only [Memory.read_writeElem h, if_true]
  rw [if_neg (by omega), if_neg (by omega), if_neg (by omega), if_neg (by omega), if_neg (by omega), if_neg (by omega)]
  ext i hi
  simp only [BitVec.getElem_append, BitVec.getElem_extractLsb']
  split
  · rw [BitVec.getLsbD_eq_getElem (by omega)]; simp
  · split
    · rw [BitVec.getLsbD_eq_getElem (by omega)]; congr 1; omega
    · split
      · rw [BitVec.getLsbD_eq_getElem (by omega)]; congr 1; omega
      · rw [BitVec.getLsbD_eq_getElem (by omega)]; congr 1; omega

/-- Every other element reads as before. -/
theorem Memory.readElem_writeElem_other {m : Memory} (h : Memory.wf m) {e f : Nat} (v : F32) (hf : f ≠ e) :
    (m.writeElem e v).readElem f = m.readElem f := by
  unfold Memory.readElem
  rw [Memory.read_writeElem_outside h _ _ (by omega), Memory.read_writeElem_outside h _ _ (by omega),
    Memory.read_writeElem_outside h _ _ (by omega), Memory.read_writeElem_outside h _ _ (by omega)]

end Sys2Proof.Machine
end

