-- ==== Sys2Proof/Laws/Gemm.lean ====
section
/-! SUPPORT. What the operations of GEMM do: one tap, the run of all taps, the write-back. -/

namespace Sys2Proof.Machine

/-! ### One tap -/

@[simp] theorem gemmTap_rows (p : Params) (m : Memory) (g : GemmArrays) (t : Tile) (q : SeqPos) :
    (gemmTap p m g t q).rows = t.rows := rfl
@[simp] theorem gemmTap_cols (p : Params) (m : Memory) (g : GemmArrays) (t : Tile) (q : SeqPos) :
    (gemmTap p m g t q).cols = t.cols := rfl
@[simp] theorem gemmTap_depth (p : Params) (m : Memory) (g : GemmArrays) (t : Tile) (q : SeqPos) :
    (gemmTap p m g t q).depth = t.depth := rfl
@[simp] theorem gemmTap_cfg (p : Params) (m : Memory) (g : GemmArrays) (t : Tile) (q : SeqPos) :
    (gemmTap p m g t q).cfg = t.cfg := rfl
@[simp] theorem gemmTap_fmt (p : Params) (m : Memory) (g : GemmArrays) (t : Tile) (q : SeqPos) :
    (gemmTap p m g t q).fmt = t.fmt := rfl
@[simp] theorem gemmTap_cycle (p : Params) (m : Memory) (g : GemmArrays) (t : Tile) (q : SeqPos) :
    (gemmTap p m g t q).cycle = t.cycle + 1 := rfl
@[simp] theorem gemmTap_lanes (p : Params) (m : Memory) (g : GemmArrays) (t : Tile) (q : SeqPos) :
    (gemmTap p m g t q).lanes = (tileStep p q.i q.j (tapInput m g q) t).1.lanes := rfl

/-- The latch after a tap (R328): a valid output replaces the lane's entry. -/
theorem gemmTap_latch (p : Params) (m : Memory) (g : GemmArrays) (t : Tile) (q : SeqPos) :
    (gemmTap p m g t q).latch =
      if (tileStep p q.i q.j (tapInput m g q) t).2.v
      then t.latch.set (q.i * t.cols + q.j) (some (tileStep p q.i q.j (tapInput m g q) t).2.d)
      else t.latch := rfl

/-! ### A run of taps -/

/-- What a run of taps leaves as it was, and how `cycle` counts it (R293). -/
theorem foldl_gemmTap (p : Params) (m : Memory) (g : GemmArrays) (qs : List SeqPos) (t : Tile) :
    let t' := qs.foldl (gemmTap p m g) t
    t'.rows = t.rows ∧ t'.cols = t.cols ∧ t'.depth = t.depth ∧ t'.cfg = t.cfg ∧ t'.fmt = t.fmt
      ∧ t'.lanes.length = t.lanes.length ∧ t'.cycle = t.cycle + qs.length := by
  induction qs generalizing t with
  | nil => simp
  | cons q qs ih =>
    obtain ⟨h1, h2, h3, h4, h5, h6, h7⟩ := ih (gemmTap p m g t q)
    simp only [List.foldl_cons]
    refine ⟨h1, h2, h3, h4, h5, h6.trans (by simp), h7.trans ?_⟩
    rw [gemmTap_cycle, List.length_cons]
    omega

/-- A run of taps keeps every lane well formed. -/
theorem foldl_gemmTap_lanes_wf {p : Params} (m : Memory) (g : GemmArrays) (qs : List SeqPos) {t : Tile}
    (h : ∀ l ∈ t.lanes, l.wf p t.cfg) : ∀ l ∈ (qs.foldl (gemmTap p m g) t).lanes, l.wf p t.cfg := by
  induction qs generalizing t with
  | nil => exact h
  | cons q qs ih => exact ih (t := gemmTap p m g t q) (tileStep_lanes_wf h _ _ _)

@[simp] theorem gemmStart_rows (t : Tile) : (gemmStart t).rows = t.rows := rfl
@[simp] theorem gemmStart_cols (t : Tile) : (gemmStart t).cols = t.cols := rfl
@[simp] theorem gemmStart_depth (t : Tile) : (gemmStart t).depth = t.depth := rfl
@[simp] theorem gemmStart_cfg (t : Tile) : (gemmStart t).cfg = t.cfg := rfl
@[simp] theorem gemmStart_fmt (t : Tile) : (gemmStart t).fmt = t.fmt := rfl
@[simp] theorem gemmStart_cycle (t : Tile) : (gemmStart t).cycle = 0 := rfl
@[simp] theorem gemmStart_lanes (t : Tile) : (gemmStart t).lanes = t.lanes.map Lane.cleared := rfl
@[simp] theorem gemmStart_latch (t : Tile) : (gemmStart t).latch = List.replicate (t.rows * t.cols) none := rfl

/-- How many taps one pass over the grid has. -/
@[simp] theorem gridPass_length (phase : SeqPhase) (n rows cols : Nat) :
    (gridPass phase n rows cols).length = rows * cols := by
  simp [gridPass, List.length_flatMap]

/-- A coordinate stands in a pass exactly where it lies in the grid. -/
theorem mem_gridPass {phase : SeqPhase} {n rows cols : Nat} {q : SeqPos} :
    q ∈ gridPass phase n rows cols ↔ q.phase = phase ∧ q.n = n ∧ q.i < rows ∧ q.j < cols := by
  obtain ⟨ph, m, i, j⟩ := q
  simp only [gridPass, List.mem_flatMap, List.mem_map, List.mem_range, SeqPos.mk.injEq]
  constructor
  · rintro ⟨a, ha, b, hb, rfl, rfl, rfl, rfl⟩
    exact ⟨rfl, rfl, ha, hb⟩
  · rintro ⟨rfl, rfl, hi, hj⟩
    exact ⟨i, hi, j, hj, rfl, rfl, rfl, rfl⟩

/-! ### The write-back -/

/-- Writing a list of elements keeps the canonical form. -/
theorem foldl_memWrite_wf (r : ArrayRef) (idx : SeqPos → Nat) (val : SeqPos → F32) (qs : List SeqPos) {m : Memory}
    (h : Memory.wf m) : Memory.wf (qs.foldl (fun m q => memWrite m r (idx q) (val q)) m) := by
  induction qs generalizing m with
  | nil => exact h
  | cons q qs ih => exact ih (Memory.writeElem_wf h _ _)

/-- Writing a list of elements leaves every byte outside them alone. -/
theorem read_foldl_memWrite_outside (r : ArrayRef) (idx : SeqPos → Nat) (val : SeqPos → F32) (qs : List SeqPos)
    {m : Memory} (h : Memory.wf m) {a : Nat} (ha : ∀ q ∈ qs, a / 4 ≠ r.base + idx q) :
    (qs.foldl (fun m q => memWrite m r (idx q) (val q)) m).read a = m.read a := by
  induction qs generalizing m with
  | nil => rfl
  | cons q qs ih =>
    rw [List.foldl_cons, ih (m := memWrite m r _ _) (Memory.writeElem_wf h _ _) fun x hx => ha x (List.mem_cons_of_mem _ hx)]
    exact Memory.read_writeElem_outside h _ _ (ha q List.mem_cons_self)

/-- Writing a list of elements leaves every other element alone. -/
theorem readElem_foldl_memWrite_other (r : ArrayRef) (idx : SeqPos → Nat) (val : SeqPos → F32) (qs : List SeqPos)
    {m : Memory} (h : Memory.wf m) {e : Nat} (he : ∀ q ∈ qs, e ≠ r.base + idx q) :
    (qs.foldl (fun m q => memWrite m r (idx q) (val q)) m).readElem e = m.readElem e := by
  induction qs generalizing m with
  | nil => rfl
  | cons q qs ih =>
    rw [List.foldl_cons, ih (m := memWrite m r _ _) (Memory.writeElem_wf h _ _) fun x hx => he x (List.mem_cons_of_mem _ hx)]
    exact Memory.readElem_writeElem_other h _ (he q List.mem_cons_self)

/-- The write-back keeps the canonical form. -/
theorem writeBack_wf (g : GemmArrays) (t : Tile) {m : Memory} (h : Memory.wf m) : Memory.wf (writeBack g t m) :=
  foldl_memWrite_wf _ _ _ _ h

end Sys2Proof.Machine
end

