-- ==== Sys2Proof/Laws/Exec.lean ====
section
/-! SUPPORT. One lemma per shared operation and per command that says all it can answer; a proof about a step cites these
and unfolds nothing. -/

namespace Sys2Proof.Machine

/-! ### The micro-operations of the slice -/

/-- Writing X, Y, Z or CIN writes that wire and nothing else. -/
theorem writeX_next {v : Int} {s t : State} (h : writeX v s = .next t) : t = s.withNodes { s.nodes with x := v } := by
  cases h; rfl
theorem writeY_next {v : Int} {s t : State} (h : writeY v s = .next t) : t = s.withNodes { s.nodes with y := v } := by
  cases h; rfl
theorem writeZ_next {v : Int} {s t : State} (h : writeZ v s = .next t) : t = s.withNodes { s.nodes with z := v } := by
  cases h; rfl
theorem writeCin_next {b : BitVec 1} {s t : State} (h : writeCin b s = .next t) :
    t = s.withNodes { s.nodes with cin := b } := by
  cases h; rfl

/-- The ALU writes R and P and nothing else. -/
theorem writeR_next {v : Int} {s t : State} (h : writeR v s = .next t) : t = s.withAlu v := by
  cases h; rfl

/-- What any micro-operation of the slice can do (R80): it completes, and only the wires and `P` can change. -/
theorem exec_slice {i : Instr} {c : OpClass} (hc : i.opClass = some c) (s : State) :
    ∃ n p, exec i s = .next { s with nodes := n, p := p } := by
  cases i <;> first | exact ⟨_, _, rfl⟩ | simp [Instr.opClass] at hc

/-! ### The commands -/

/-- All that INIT can answer with a next state (R260). -/
theorem execInit_next {s t : State} (h : execInit s = .next t) :
    s.tile = none ∧ s.args.fmt.kind = .fp32 ∧
      ((s.args.rows = 0 ∨ s.args.cols = 0 ∨ s.args.depth = 0) ∧ t = returnErr s .config
        ∨ (s.args.rows ≠ 0 ∧ s.args.cols ≠ 0 ∧ s.args.depth ≠ 0) ∧ s.args.allocOk = false ∧ t = returnErr s .alloc
        ∨ (s.args.rows ≠ 0 ∧ s.args.cols ≠ 0 ∧ s.args.depth ≠ 0) ∧ s.args.allocOk = true
          ∧ t = returnOk (s.withTile
              (some (Tile.fresh s.args.cfg s.args.fmt s.args.rows s.args.cols s.args.depth)))) := by
  unfold execInit at h
  split at h
  · cases h
  · rename_i hn
    split at h
    · cases h
    · rename_i hk
      split at h
      · rename_i hd
        cases h
        exact ⟨hn, not_not.1 hk, .inl ⟨hd, rfl⟩⟩
      · rename_i hd
        have hd' : s.args.rows ≠ 0 ∧ s.args.cols ≠ 0 ∧ s.args.depth ≠ 0 := by
          refine ⟨fun e => hd (.inl e), fun e => hd (.inr (.inl e)), fun e => hd (.inr (.inr e))⟩
        split at h
        · rename_i ha
          cases h
          exact ⟨hn, not_not.1 hk, .inr (.inl ⟨hd', ha, rfl⟩)⟩
        · rename_i ha
          cases h
          exact ⟨hn, not_not.1 hk, .inr (.inr ⟨hd', by simpa using ha, rfl⟩)⟩

/-- All that RESET can answer with a next state (R263). -/
theorem execReset_next {s t : State} (h : execReset s = .next t) :
    ∃ u, s.tile = some u ∧ t = returnOk (s.withTile (some u.cleared)) := by
  unfold execReset at h
  split at h
  · cases h
  · rename_i u hu
    cases h
    exact ⟨u, hu, rfl⟩

/-- All that FREE can answer (R265). -/
theorem execFree_next {s t : State} (h : execFree s = .next t) : t = returnNone (s.withTile none) := by
  cases h; rfl

/-- All that STEP can answer with a next state (R286, R294). -/
theorem execStep_next {s t : State} (h : execStep s = .next t) :
    ∃ u, s.tile = some u ∧
      ((u.rows ≤ s.args.row ∨ u.cols ≤ s.args.col) ∧ t = returnErr s .bounds
        ∨ s.args.row < u.rows ∧ s.args.col < u.cols
          ∧ t = returnOut
              (s.withTile (some (tileStep s.params s.args.row s.args.col s.args.laneInput u).1))
              (tileStep s.params s.args.row s.args.col s.args.laneInput u).2) := by
  unfold execStep at h
  split at h
  · cases h
  · rename_i u hu
    split at h
    · rename_i hb
      cases h
      exact ⟨u, hu, .inl ⟨hb, rfl⟩⟩
    · rename_i hb
      cases h
      exact ⟨u, hu, .inr ⟨by omega, by omega, rfl⟩⟩

/-- All that GEMM can answer with a next state (R320, R321). -/
theorem execGemm_next {s t : State} (h : execGemm s = .next t) :
    ∃ u g, s.tile = some u ∧ s.args.gemmArrays = some g ∧ longEnough g u = true ∧ overlaps g u = false ∧
      (strideTooSmall g u = true ∧ t = returnErr s .bounds
        ∨ strideTooSmall g u = false
          ∧ t = returnOk ((s.withTile (some { gemmRun s.params s.mem g u with seq := none })).withMem
              (writeBack g (gemmRun s.params s.mem g u) s.mem))) := by
  unfold execGemm at h
  split at h
  · cases h
  · rename_i u hu
    split at h
    · cases h
    · rename_i g hg
      split at h
      · cases h
      · rename_i hl
        split at h
        · cases h
        · rename_i ho
          split at h
          · rename_i hb
            cases h
            exact ⟨u, g, hu, hg, by simpa using hl, by simpa using ho, .inl ⟨hb, rfl⟩⟩
          · rename_i hb
            cases h
            exact ⟨u, g, hu, hg, by simpa using hl, by simpa using ho, .inr ⟨by simpa using hb, rfl⟩⟩

/-! ### The step -/

/-- All that a step can answer with a next state: nothing was asked for, or the decoded instruction ran. -/
theorem step_next {s t : State} (h : step s = .next t) :
    (fetch (present s) = none ∧ t = present s)
      ∨ ∃ e u, fetch (present s) = some e ∧ exec (decode e) (present s) = .next u ∧ t = advance u := by
  unfold step at h
  split at h
  · rename_i hf
    cases h
    exact .inl ⟨hf, rfl⟩
  · rename_i e hf
    split at h
    · rename_i u hu
      cases h
      exact .inr ⟨e, u, hf, hu, rfl⟩
    · cases h
    · cases h

/-- Presenting a request changes the ports, the queue and the activity only. -/
theorem present_frame (s : State) :
    (present s).params = s.params ∧ (present s).nodes = s.nodes ∧ (present s).p = s.p
      ∧ (present s).result = s.result ∧ (present s).tile = s.tile ∧ (present s).mem = s.mem := by
  unfold present
  split
  · split <;> exact ⟨rfl, rfl, rfl, rfl, rfl, rfl⟩
  · exact ⟨rfl, rfl, rfl, rfl, rfl, rfl⟩
  · exact ⟨rfl, rfl, rfl, rfl, rfl, rfl⟩

/-- Advancing changes the activity only. -/
theorem advance_eq (s : State) : ∃ a, advance s = { s with activity := a } := by
  unfold advance
  split
  · exact ⟨s.activity, rfl⟩
  · split <;> exact ⟨_, rfl⟩
  · exact ⟨_, rfl⟩

end Sys2Proof.Machine
end

