-- ==== Sys2Proof/Laws/History.lean ====
section
/-! SUPPORT. What the histories hold: the event history of a GEMM that succeeds, the history of a lane after each command. -/

namespace Sys2Proof.Machine

/-! ### The event history of a GEMM -/

@[simp] theorem tapEvents_nil (p : Params) (m : Memory) (g : GemmArrays) (t : Tile) : tapEvents p m g [] t = [] := rfl

theorem tapEvents_cons (p : Params) (m : Memory) (g : GemmArrays) (q : SeqPos) (qs : List SeqPos) (t : Tile) :
    tapEvents p m g (q :: qs) t =
      tapReads m g q ++ .step q.i q.j (tapInput m g q) (tileStep p q.i q.j (tapInput m g q) t).2
        :: tapEvents p m g qs (gemmTap p m g t q) := rfl

@[simp] theorem apply_read (p : Params) (g : GemmArrays) (mt : Memory × Tile) (sp : ReadSpace) (idx : Nat) (v : F32) :
    GemmEvent.apply p g mt (.read sp idx v) = mt := rfl
@[simp] theorem apply_step (p : Params) (g : GemmArrays) (mt : Memory × Tile) (r c : Nat) (x : LaneInput) (out : Slot) :
    GemmEvent.apply p g mt (.step r c x out) = (mt.1, (tileStep p r c x mt.2).1) := rfl
@[simp] theorem apply_write (p : Params) (g : GemmArrays) (mt : Memory × Tile) (idx : Nat) (v : F32) :
    GemmEvent.apply p g mt (.write idx v) = (memWrite mt.1 g.dst idx v, mt.2) := rfl

@[simp] theorem onLane_read (r c : Nat) (sp : ReadSpace) (idx : Nat) (v : F32) :
    GemmEvent.onLane r c (.read sp idx v) = none := rfl
@[simp] theorem onLane_step (r c i j : Nat) (x : LaneInput) (out : Slot) :
    GemmEvent.onLane r c (.step i j x out) = if i = r ∧ j = c then some (x.iv, out.v) else none := rfl
@[simp] theorem onLane_write (r c idx : Nat) (v : F32) : GemmEvent.onLane r c (.write idx v) = none := rfl

/-- The reads of a tap change nothing. -/
@[simp] theorem foldl_apply_tapReads (p : Params) (m : Memory) (g : GemmArrays) (q : SeqPos) (mt : Memory × Tile) :
    (tapReads m g q).foldl (GemmEvent.apply p g) mt = mt := by
  unfold tapReads
  cases q.phase with
  | drain => rfl
  | main =>
    cases g.bias with
    | none => rfl
    | some b => dsimp only; split <;> rfl

/-- The event history of a GEMM that completes with OK, and of every other GEMM (R96, R321). -/
theorem gemmHistory_of_next {s u : State} (h : exec .gemm s = .next u) :
    (∃ t g, s.tile = some t ∧ s.args.gemmArrays = some g ∧ strideTooSmall g t = false
        ∧ gemmHistory s = gemmEvents s.params s.mem g t)
      ∨ (u.result.status = some .bounds ∧ gemmHistory s = []) := by
  obtain ⟨t, g, ht, hg, -, -, ⟨-, rfl⟩ | ⟨hs, rfl⟩⟩ := execGemm_next h
  · refine .inr ⟨rfl, ?_⟩
    unfold gemmHistory
    rw [h]
    rfl
  · refine .inl ⟨t, g, ht, hg, hs, ?_⟩
    unfold gemmHistory
    rw [h, ht, hg]
    rfl

/-! ### The history of a lane -/

/-- An instruction of the slice is no command: its step leaves every history. -/
theorem stepHistory_evaluating {s : State} {op : OpClass} (h : s.activity = .evaluating op) (r c : Nat) (l : LaneHistory) :
    stepHistory r c s l = l := by
  have hp : present s = s := by unfold present; rw [h]
  unfold stepHistory
  rw [hp, h]

/-- The history after a command that stands on the port and completes. -/
theorem stepHistory_commanded {s u : State} {code : CommandCode} (h : s.activity = .commanded code)
    (hu : exec (decode (.command code)) s = .next u) (r c : Nat) (l : LaneHistory) :
    stepHistory r c s l = commandHistory r c (decode (.command code)) s u l := by
  have hp : present s = s := by unfold present; rw [h]
  unfold stepHistory
  rw [hp, h]
  dsimp only
  rw [hu]

end Sys2Proof.Machine
end

