-- ==== Sys2Proof/Laws/Params.lean ====
section
/-! SUPPORT. What the operations that a parameter chooses do: the bitwise operators, a cell of `LOGIC_TABLE`, the two float
operations at their reference value. -/

namespace Sys2Proof.Machine

/-! ### Bitwise operators, bit by bit (R16) -/

@[simp] theorem intNot_testBit (v : Int) (n : Nat) : (intNot v).testBit n = !v.testBit n := by
  cases v with
  | ofNat m =>
    have : intNot (Int.ofNat m) = Int.negSucc m := by simp only [intNot, Int.ofNat_eq_natCast, Int.negSucc_eq]; ring
    rw [this]; rfl
  | negSucc m =>
    have : intNot (Int.negSucc m) = Int.ofNat m := by simp only [intNot, Int.ofNat_eq_natCast, Int.negSucc_eq]; ring
    rw [this]
    show _ = !!m.testBit n
    rw [Bool.not_not]; rfl

@[simp] theorem intAnd_testBit (x z : Int) (n : Nat) : (intAnd x z).testBit n = (x.testBit n && z.testBit n) := by
  cases x <;> cases z <;> simp only [intAnd, natDiff, Int.testBit, Nat.testBit_and, Nat.testBit_or, Nat.testBit_xor] <;>
    (rename_i a b; cases a.testBit n <;> cases b.testBit n <;> rfl)

@[simp] theorem intOr_testBit (x z : Int) (n : Nat) : (intOr x z).testBit n = (x.testBit n || z.testBit n) := by
  simp [intOr]

@[simp] theorem intXor_testBit (x z : Int) (n : Nat) : (intXor x z).testBit n = (x.testBit n ^^ z.testBit n) := by
  cases x <;> cases z <;> simp only [intXor, Int.testBit, Nat.testBit_xor] <;>
    (rename_i a b; cases a.testBit n <;> cases b.testBit n <;> rfl)

/-! ### `LOGIC_TABLE` (R226, R227, R246) -/

/-- Every bit of a logic function is the bit function of the two bits. -/
@[simp] theorem intLogic_testBit (f : LogicFn) (x z : Int) (n : Nat) :
    (intLogic f x z).testBit n = f.at (x.testBit n) (z.testBit n) := by
  have zero : Int.testBit 0 n = false := Nat.zero_testBit n
  obtain ⟨a, b, c, d⟩ := f
  cases hx : x.testBit n <;> cases hz : z.testBit n <;> cases a <;> cases b <;> cases c <;> cases d <;>
    simp [intLogic, LogicFn.at, hx, hz, zero]

/-- What a code computes where the table defines it. -/
theorem tableLogic_some {s : State} {ysel : BitVec 2} {alumode : BitVec 4} {f : LogicFn}
    (h : lookupLogic s.params.logicTable ⟨ysel, alumode⟩ = some f) :
    tableLogic s ysel alumode = intLogic f s.nodes.x s.nodes.z := by
  unfold tableLogic
  rw [h]

/-- A code that the table does not define computes 0. -/
theorem tableLogic_none {s : State} {ysel : BitVec 2} {alumode : BitVec 4}
    (h : lookupLogic s.params.logicTable ⟨ysel, alumode⟩ = none) : tableLogic s ysel alumode = 0 := by
  unfold tableLogic
  rw [h]

/-! ### `FMUL` and `FADD` (R283, R284) -/

theorem fmul_ieee {p : Params} (h : p.fmulFn = .ieee) (a b : F32) : fmul p a b = ieeeMul a b := by
  unfold fmul
  rw [h]

theorem fadd_ieee {p : Params} (h : p.faddFn = .ieee) (a b : F32) : fadd p a b = ieeeAdd a b := by
  unfold fadd
  rw [h]

end Sys2Proof.Machine
end

