-- ==== Sys2Proof/Laws/PerInstr.lean ====
section
/-! SUPPORT. Statements about every instruction, made once per constructor. `EncodesRow`: the word that the encoder writes for
a well-formed instruction is selected by a row of the opcode table that carries the instruction's mnemonic and class. -/

namespace Sys2Proof.Laws

/-- The encoder's word matches a row of the instruction's own (spec/30_encoding.md R117). -/
def EncodesRow.Statement (i : Instr) : Prop :=
  i.wellFormed = true →
    ∃ r, r ∈ opcodeRows ∧ r.mnemonic = i.mnemonic ∧ r.cls = i.opClass ∧ i.codeBits &&& r.mask = r.pattern

/-- A row of the table by its number. -/
theorem row_mem (n : Fin 70) : opcodeRows[n.val]'n.isLt ∈ opcodeRows := List.getElem_mem _

theorem EncodesRow.aselC2 : EncodesRow.Statement .aselC2 :=
  fun _ => ⟨_, row_mem 0, rfl, rfl, by decide⟩

theorem EncodesRow.aselC1 : EncodesRow.Statement .aselC1 :=
  fun _ => ⟨_, row_mem 1, rfl, rfl, by decide⟩

theorem EncodesRow.aselZero (cap1 : BitVec 1) : EncodesRow.Statement (.aselZero cap1) :=
  fun h => ⟨_, row_mem 2, rfl, rfl, by revert h; revert cap1; decide⟩

theorem EncodesRow.bselC2 : EncodesRow.Statement .bselC2 :=
  fun _ => ⟨_, row_mem 3, rfl, rfl, by decide⟩

theorem EncodesRow.bselC1 : EncodesRow.Statement .bselC1 :=
  fun _ => ⟨_, row_mem 4, rfl, rfl, by decide⟩

theorem EncodesRow.dgateOff : EncodesRow.Statement .dgateOff :=
  fun _ => ⟨_, row_mem 5, rfl, rfl, by decide⟩

theorem EncodesRow.dgateOn : EncodesRow.Statement .dgateOn :=
  fun _ => ⟨_, row_mem 6, rfl, rfl, by decide⟩

theorem EncodesRow.preaddAdd : EncodesRow.Statement .preaddAdd :=
  fun _ => ⟨_, row_mem 7, rfl, rfl, by decide⟩

theorem EncodesRow.preaddSub : EncodesRow.Statement .preaddSub :=
  fun _ => ⟨_, row_mem 8, rfl, rfl, by decide⟩

theorem EncodesRow.mult : EncodesRow.Statement .mult :=
  fun _ => ⟨_, row_mem 9, rfl, rfl, by decide⟩

theorem EncodesRow.xmuxZero : EncodesRow.Statement .xmuxZero :=
  fun _ => ⟨_, row_mem 10, rfl, rfl, by decide⟩

theorem EncodesRow.xmuxM : EncodesRow.Statement .xmuxM :=
  fun _ => ⟨_, row_mem 11, rfl, rfl, by decide⟩

theorem EncodesRow.xmuxMIll (ysel : BitVec 2) : EncodesRow.Statement (.xmuxMIll ysel) := by
  intro h
  have hrow : (Instr.xmuxMIll ysel).codeBits &&& 0x000007 = 0x000001 ∨ (Instr.xmuxMIll ysel).codeBits &&& 0x00000F = 0x00000D := by
    revert h; revert ysel; decide
  rcases hrow with h | h
  · exact ⟨_, row_mem 12, rfl, rfl, h⟩
  · exact ⟨_, row_mem 13, rfl, rfl, h⟩

theorem EncodesRow.xmuxP : EncodesRow.Statement .xmuxP :=
  fun _ => ⟨_, row_mem 14, rfl, rfl, by decide⟩

theorem EncodesRow.xmuxAb : EncodesRow.Statement .xmuxAb :=
  fun _ => ⟨_, row_mem 15, rfl, rfl, by decide⟩

theorem EncodesRow.ymuxZero : EncodesRow.Statement .ymuxZero :=
  fun _ => ⟨_, row_mem 16, rfl, rfl, by decide⟩

theorem EncodesRow.ymuxM : EncodesRow.Statement .ymuxM :=
  fun _ => ⟨_, row_mem 17, rfl, rfl, by decide⟩

theorem EncodesRow.ymuxMIll (xsel : BitVec 2) : EncodesRow.Statement (.ymuxMIll xsel) := by
  intro h
  have hrow : (Instr.ymuxMIll xsel).codeBits &&& 0x00000F = 0x000004 ∨ (Instr.ymuxMIll xsel).codeBits &&& 0x00000E = 0x000006 := by
    revert h; revert xsel; decide
  rcases hrow with h | h
  · exact ⟨_, row_mem 18, rfl, rfl, h⟩
  · exact ⟨_, row_mem 19, rfl, rfl, h⟩

theorem EncodesRow.ymuxOnes : EncodesRow.Statement .ymuxOnes :=
  fun _ => ⟨_, row_mem 20, rfl, rfl, by decide⟩

theorem EncodesRow.ymuxC : EncodesRow.Statement .ymuxC :=
  fun _ => ⟨_, row_mem 21, rfl, rfl, by decide⟩

theorem EncodesRow.zmuxZero : EncodesRow.Statement .zmuxZero :=
  fun _ => ⟨_, row_mem 22, rfl, rfl, by decide⟩

theorem EncodesRow.zmuxPcin : EncodesRow.Statement .zmuxPcin :=
  fun _ => ⟨_, row_mem 23, rfl, rfl, by decide⟩

theorem EncodesRow.zmuxP : EncodesRow.Statement .zmuxP :=
  fun _ => ⟨_, row_mem 24, rfl, rfl, by decide⟩

theorem EncodesRow.zmuxC : EncodesRow.Statement .zmuxC :=
  fun _ => ⟨_, row_mem 25, rfl, rfl, by decide⟩

theorem EncodesRow.zmuxPcond (xsel : BitVec 2) (ysel : BitVec 2) : EncodesRow.Statement (.zmuxPcond xsel ysel) :=
  fun h => ⟨_, row_mem 26, rfl, rfl, by revert h; revert xsel ysel; decide⟩

theorem EncodesRow.zmuxPcin17 : EncodesRow.Statement .zmuxPcin17 :=
  fun _ => ⟨_, row_mem 27, rfl, rfl, by decide⟩

theorem EncodesRow.zmuxP17 : EncodesRow.Statement .zmuxP17 :=
  fun _ => ⟨_, row_mem 28, rfl, rfl, by decide⟩

theorem EncodesRow.zmuxRsvd : EncodesRow.Statement .zmuxRsvd :=
  fun _ => ⟨_, row_mem 29, rfl, rfl, by decide⟩

theorem EncodesRow.cinCarryin (carryin : BitVec 1) : EncodesRow.Statement (.cinCarryin carryin) :=
  fun h => ⟨_, row_mem 30, rfl, rfl, by revert h; revert carryin; decide⟩

theorem EncodesRow.cinNpcin47 : EncodesRow.Statement .cinNpcin47 :=
  fun _ => ⟨_, row_mem 31, rfl, rfl, by decide⟩

theorem EncodesRow.cinCarrycascin (carrycascin : BitVec 1) : EncodesRow.Statement (.cinCarrycascin carrycascin) :=
  fun h => ⟨_, row_mem 32, rfl, rfl, by revert h; revert carrycascin; decide⟩

theorem EncodesRow.cinPcin47 : EncodesRow.Statement .cinPcin47 :=
  fun _ => ⟨_, row_mem 33, rfl, rfl, by decide⟩

theorem EncodesRow.cinCcofb : EncodesRow.Statement .cinCcofb :=
  fun _ => ⟨_, row_mem 34, rfl, rfl, by decide⟩

theorem EncodesRow.cinNp47 : EncodesRow.Statement .cinNp47 :=
  fun _ => ⟨_, row_mem 35, rfl, rfl, by decide⟩

theorem EncodesRow.cinA24xb17 : EncodesRow.Statement .cinA24xb17 :=
  fun _ => ⟨_, row_mem 36, rfl, rfl, by decide⟩

theorem EncodesRow.cinP47 : EncodesRow.Statement .cinP47 :=
  fun _ => ⟨_, row_mem 37, rfl, rfl, by decide⟩

theorem EncodesRow.add3 : EncodesRow.Statement .add3 :=
  fun _ => ⟨_, row_mem 38, rfl, rfl, by decide⟩

theorem EncodesRow.add3Nz : EncodesRow.Statement .add3Nz :=
  fun _ => ⟨_, row_mem 39, rfl, rfl, by decide⟩

theorem EncodesRow.notAdd3 : EncodesRow.Statement .notAdd3 :=
  fun _ => ⟨_, row_mem 40, rfl, rfl, by decide⟩

theorem EncodesRow.zsub : EncodesRow.Statement .zsub :=
  fun _ => ⟨_, row_mem 41, rfl, rfl, by decide⟩

theorem EncodesRow.arithRsvd (alumode : BitVec 4) : EncodesRow.Statement (.arithRsvd alumode) := by
  intro h
  have hrow : (Instr.arithRsvd alumode).codeBits &&& 0x000604 = 0x000204 ∨ (Instr.arithRsvd alumode).codeBits &&& 0x000604 = 0x000404 ∨ (Instr.arithRsvd alumode).codeBits &&& 0x000604 = 0x000604 := by
    revert h; revert alumode; decide
  rcases hrow with h | h | h
  · exact ⟨_, row_mem 42, rfl, rfl, h⟩
  · exact ⟨_, row_mem 43, rfl, rfl, h⟩
  · exact ⟨_, row_mem 44, rfl, rfl, h⟩

theorem EncodesRow.xorY0A4 : EncodesRow.Statement .xorY0A4 :=
  fun _ => ⟨_, row_mem 45, rfl, rfl, by decide⟩

theorem EncodesRow.xnorY0A5 : EncodesRow.Statement .xnorY0A5 :=
  fun _ => ⟨_, row_mem 46, rfl, rfl, by decide⟩

theorem EncodesRow.xnorY0A6 : EncodesRow.Statement .xnorY0A6 :=
  fun _ => ⟨_, row_mem 47, rfl, rfl, by decide⟩

theorem EncodesRow.xorY0A7 : EncodesRow.Statement .xorY0A7 :=
  fun _ => ⟨_, row_mem 48, rfl, rfl, by decide⟩

theorem EncodesRow.andY0A12 : EncodesRow.Statement .andY0A12 :=
  fun _ => ⟨_, row_mem 49, rfl, rfl, by decide⟩

theorem EncodesRow.andnY0A13 : EncodesRow.Statement .andnY0A13 :=
  fun _ => ⟨_, row_mem 50, rfl, rfl, by decide⟩

theorem EncodesRow.nandY0A14 : EncodesRow.Statement .nandY0A14 :=
  fun _ => ⟨_, row_mem 51, rfl, rfl, by decide⟩

theorem EncodesRow.ornxY0A15 : EncodesRow.Statement .ornxY0A15 :=
  fun _ => ⟨_, row_mem 52, rfl, rfl, by decide⟩

theorem EncodesRow.xnorY2A4 : EncodesRow.Statement .xnorY2A4 :=
  fun _ => ⟨_, row_mem 53, rfl, rfl, by decide⟩

theorem EncodesRow.xorY2A5 : EncodesRow.Statement .xorY2A5 :=
  fun _ => ⟨_, row_mem 54, rfl, rfl, by decide⟩

theorem EncodesRow.xorY2A6 : EncodesRow.Statement .xorY2A6 :=
  fun _ => ⟨_, row_mem 55, rfl, rfl, by decide⟩

theorem EncodesRow.xnorY2A7 : EncodesRow.Statement .xnorY2A7 :=
  fun _ => ⟨_, row_mem 56, rfl, rfl, by decide⟩

theorem EncodesRow.orY2A12 : EncodesRow.Statement .orY2A12 :=
  fun _ => ⟨_, row_mem 57, rfl, rfl, by decide⟩

theorem EncodesRow.ornY2A13 : EncodesRow.Statement .ornY2A13 :=
  fun _ => ⟨_, row_mem 58, rfl, rfl, by decide⟩

theorem EncodesRow.norY2A14 : EncodesRow.Statement .norY2A14 :=
  fun _ => ⟨_, row_mem 59, rfl, rfl, by decide⟩

theorem EncodesRow.andnxY2A15 : EncodesRow.Statement .andnxY2A15 :=
  fun _ => ⟨_, row_mem 60, rfl, rfl, by decide⟩

theorem EncodesRow.logicRsvd (code : LogicCode) : EncodesRow.Statement (.logicRsvd code) := by
  obtain ⟨ysel, alumode⟩ := code
  exact fun h => ⟨_, row_mem 61, rfl, rfl, by revert h; revert ysel alumode; decide⟩

theorem EncodesRow.init : EncodesRow.Statement .init :=
  fun _ => ⟨_, row_mem 62, rfl, rfl, by decide⟩

theorem EncodesRow.reset : EncodesRow.Statement .reset :=
  fun _ => ⟨_, row_mem 63, rfl, rfl, by decide⟩

theorem EncodesRow.free : EncodesRow.Statement .free :=
  fun _ => ⟨_, row_mem 64, rfl, rfl, by decide⟩

theorem EncodesRow.step : EncodesRow.Statement .step :=
  fun _ => ⟨_, row_mem 65, rfl, rfl, by decide⟩

theorem EncodesRow.gemm : EncodesRow.Statement .gemm :=
  fun _ => ⟨_, row_mem 66, rfl, rfl, by decide⟩

theorem EncodesRow.cmdRsvd5 : EncodesRow.Statement .cmdRsvd5 :=
  fun _ => ⟨_, row_mem 67, rfl, rfl, by decide⟩

theorem EncodesRow.cmdRsvd6 : EncodesRow.Statement .cmdRsvd6 :=
  fun _ => ⟨_, row_mem 68, rfl, rfl, by decide⟩

theorem EncodesRow.cmdRsvd7 : EncodesRow.Statement .cmdRsvd7 :=
  fun _ => ⟨_, row_mem 69, rfl, rfl, by decide⟩

end Sys2Proof.Laws
end

