-- ==== Sys2Proof/Tests/Slice0.lean ====
section
/-! SUPPORT. Tests of one step or one word each, with the expected results of the spec's own examples (the rule is named
beside each), and for every statement with hypotheses a state that meets them. -/

open Sys2Proof Sys2Proof.Machine

namespace Sys2Proof.Tests

/-! ### Ill-formed terms -/

/-- R172: the multiplier on both muxes is no "illegal" selection. -/
theorem test_wf_refuses_xmuxMIll : (Instr.xmuxMIll 1).wellFormed = false := by decide
/-- R177. -/
theorem test_wf_refuses_ymuxMIll : (Instr.ymuxMIll 1).wellFormed = false := by decide
/-- R225: ALUMODE 3 is ZSUB. -/
theorem test_wf_refuses_arithRsvd : (Instr.arithRsvd 3).wellFormed = false := by decide
/-- R244: ALUMODE 12 is a logic code, and the Y code 1 is no logic mode. -/
theorem test_wf_refuses_logicRsvd :
    (Instr.logicRsvd ⟨0, 12⟩).wellFormed = false ∧ (Instr.logicRsvd ⟨1, 0⟩).wellFormed = false := by decide

/-! ### Words written out bit by bit (R111 to R115)

From the left: CARRYCASCIN 1, CARRYIN 1, CARRYINSEL 3, INMODE 5 (B_CAP1 SUB D_EN A_ZERO A_CAP1), ALUMODE 4, OPMODE 7 (ZSEL 3,
YSEL 2, XSEL 2). -/

/-- R151 to R155. -/
theorem test_decode_select :
    decode (.control .asel 0b0_0_000_00000_0000_0000000#21) = .aselC2
    ∧ decode (.control .asel 0b0_0_000_00001_0000_0000000#21) = .aselC1
    ∧ decode (.control .asel 0b0_0_000_00010_0000_0000000#21) = .aselZero 0
    ∧ decode (.control .asel 0b1_1_111_11111_1111_1111111#21) = .aselZero 1
    ∧ decode (.control .bsel 0b0_0_000_01111_0000_0000000#21) = .bselC2
    ∧ decode (.control .bsel 0b0_0_000_10000_0000_0000000#21) = .bselC1 := by decide

/-- R156 to R159, R161. -/
theorem test_decode_first_stage :
    decode (.control .dgate 0b0_0_000_11011_0000_0000000#21) = .dgateOff
    ∧ decode (.control .dgate 0b0_0_000_00100_0000_0000000#21) = .dgateOn
    ∧ decode (.control .preadd 0b0_0_000_10111_0000_0000000#21) = .preaddAdd
    ∧ decode (.control .preadd 0b0_0_000_01000_0000_0000000#21) = .preaddSub
    ∧ decode (.control .mult 0b0_0_000_00000_0000_0000000#21) = .mult := by decide

/-- R170 to R174. -/
theorem test_decode_xmux :
    decode (.control .xmux 0b0_0_000_00000_0000_000_11_00#21) = .xmuxZero
    ∧ decode (.control .xmux 0b0_0_000_00000_0000_000_01_01#21) = .xmuxM
    ∧ decode (.control .xmux 0b0_0_000_00000_0000_011_11_01#21) = .xmuxMIll 3
    ∧ decode (.control .xmux 0b0_0_000_00000_0100_011_00_10#21) = .xmuxP
    ∧ decode (.control .xmux 0b0_0_000_00000_0000_000_01_11#21) = .xmuxAb := by decide

/-- R175 to R179. -/
theorem test_decode_ymux :
    decode (.control .ymux 0b0_0_000_00000_0000_011_00_10#21) = .ymuxZero
    ∧ decode (.control .ymux 0b0_0_000_00000_0000_000_01_01#21) = .ymuxM
    ∧ decode (.control .ymux 0b0_0_000_00000_0000_011_01_00#21) = .ymuxMIll 0
    ∧ decode (.control .ymux 0b0_0_000_00000_0000_011_10_10#21) = .ymuxOnes
    ∧ decode (.control .ymux 0b0_0_000_00000_0000_000_11_00#21) = .ymuxC := by decide

/-- R180 to R187. -/
theorem test_decode_zmux :
    decode (.control .zmux 0b0_0_000_00000_0000_000_01_01#21) = .zmuxZero
    ∧ decode (.control .zmux 0b0_0_000_00000_0000_001_11_00#21) = .zmuxPcin
    ∧ decode (.control .zmux 0b0_0_000_00000_0000_010_11_00#21) = .zmuxP
    ∧ decode (.control .zmux 0b0_0_000_00000_0000_011_01_01#21) = .zmuxC
    ∧ decode (.control .zmux 0b0_0_000_00000_1100_100_10_00#21) = .zmuxPcond 0 2
    ∧ decode (.control .zmux 0b0_0_000_00000_0000_101_11_00#21) = .zmuxPcin17
    ∧ decode (.control .zmux 0b0_0_000_00000_0000_110_11_00#21) = .zmuxP17
    ∧ decode (.control .zmux 0b0_0_000_00000_0000_111_11_00#21) = .zmuxRsvd := by decide

/-- R200 to R207. -/
theorem test_decode_cin :
    decode (.control .cin 0b0_1_000_00000_0000_0001100#21) = .cinCarryin 1
    ∧ decode (.control .cin 0b0_0_001_00000_0000_0001100#21) = .cinNpcin47
    ∧ decode (.control .cin 0b1_0_010_00000_0000_0001100#21) = .cinCarrycascin 1
    ∧ decode (.control .cin 0b0_0_011_00000_0000_0001100#21) = .cinPcin47
    ∧ decode (.control .cin 0b0_0_100_00000_0000_0001100#21) = .cinCcofb
    ∧ decode (.control .cin 0b0_0_101_00000_0000_0001100#21) = .cinNp47
    ∧ decode (.control .cin 0b0_0_110_00000_0000_0001100#21) = .cinA24xb17
    ∧ decode (.control .cin 0b0_0_111_00000_0000_0001100#21) = .cinP47 := by decide

/-- R221 to R225, R244. -/
theorem test_decode_arith :
    decode (.control .alu 0b0_0_000_00000_0000_000_01_00#21) = .add3
    ∧ decode (.control .alu 0b0_0_000_00000_0001_000_11_00#21) = .add3Nz
    ∧ decode (.control .alu 0b0_0_000_00000_0010_000_11_00#21) = .notAdd3
    ∧ decode (.control .alu 0b0_0_000_00000_0011_000_01_00#21) = .zsub
    ∧ decode (.control .alu 0b0_0_000_00000_0100_000_01_00#21) = .arithRsvd 4
    ∧ decode (.control .alu 0b0_0_000_00000_1111_000_11_00#21) = .arithRsvd 15
    ∧ decode (.control .alu 0b0_0_000_00000_0011_000_00_00#21) = .logicRsvd ⟨0, 3⟩
    ∧ decode (.control .alu 0b0_0_000_00000_1000_000_10_00#21) = .logicRsvd ⟨2, 8⟩ := by decide

/-- R228 to R235. -/
theorem test_decode_logic_y0 :
    decode (.control .alu 0b0_0_000_00000_0100_011_00_10#21) = .xorY0A4
    ∧ decode (.control .alu 0b0_0_000_00000_0101_011_00_10#21) = .xnorY0A5
    ∧ decode (.control .alu 0b0_0_000_00000_0110_011_00_10#21) = .xnorY0A6
    ∧ decode (.control .alu 0b0_0_000_00000_0111_011_00_10#21) = .xorY0A7
    ∧ decode (.control .alu 0b0_0_000_00000_1100_011_00_10#21) = .andY0A12
    ∧ decode (.control .alu 0b0_0_000_00000_1101_011_00_10#21) = .andnY0A13
    ∧ decode (.control .alu 0b0_0_000_00000_1110_011_00_10#21) = .nandY0A14
    ∧ decode (.control .alu 0b0_0_000_00000_1111_011_00_10#21) = .ornxY0A15 := by decide

/-- R236 to R243. -/
theorem test_decode_logic_y2 :
    decode (.control .alu 0b0_0_000_00000_0100_011_10_10#21) = .xnorY2A4
    ∧ decode (.control .alu 0b0_0_000_00000_0101_011_10_10#21) = .xorY2A5
    ∧ decode (.control .alu 0b0_0_000_00000_0110_011_10_10#21) = .xorY2A6
    ∧ decode (.control .alu 0b0_0_000_00000_0111_011_10_10#21) = .xnorY2A7
    ∧ decode (.control .alu 0b0_0_000_00000_1100_011_10_10#21) = .orY2A12
    ∧ decode (.control .alu 0b0_0_000_00000_1101_011_10_10#21) = .ornY2A13
    ∧ decode (.control .alu 0b0_0_000_00000_1110_011_10_10#21) = .norY2A14
    ∧ decode (.control .alu 0b0_0_000_00000_1111_011_10_10#21) = .andnxY2A15 := by decide

/-- R123, R128. -/
theorem test_decode_command :
    decode (.command 0b000#3) = .init ∧ decode (.command 0b001#3) = .reset ∧ decode (.command 0b010#3) = .free
    ∧ decode (.command 0b011#3) = .step ∧ decode (.command 0b100#3) = .gemm ∧ decode (.command 0b101#3) = .cmdRsvd5
    ∧ decode (.command 0b110#3) = .cmdRsvd6 ∧ decode (.command 0b111#3) = .cmdRsvd7 := by decide

/-- The numbers of the opcode table: a command code, a control word whose own bits select most of one class, and two numbers
that are no word. -/
theorem test_decode_table_word :
    decodeTableWord 8 3 = some .step ∧ decodeTableWord 24 0x001000 = some (.aselZero 0)
    ∧ decodeTableWord 24 0x050000 = some .cinNp47 ∧ decodeTableWord 24 0x000788 = some .andnxY2A15
    ∧ decodeTableWord 8 8 = none ∧ decodeTableWord 24 0x200000 = none := by decide +kernel

/-! ### One instruction on a small state -/

/-- What an instruction answers, if it completes. -/
def answer (i : Instr) (s : State) : Option State :=
  match exec i s with
  | .next t => some t
  | _ => none

/-- A state with given wires. -/
def wires (n : Nodes) : State := State.reset.withNodes n

/-- A state with given ports. -/
def onPorts (p : Ports) : State := { State.reset with ports := p }

/-- The ports of the examples: A1 = 2, A2 = 3, B1 = 7, B2 = 11, D = 4 (R151 to R157). -/
def selectPorts : Ports := ⟨2, 3, 7, 11, 0, 4, 0, 0, 0⟩

theorem test_aselC2 : (answer .aselC2 (onPorts selectPorts)).map (·.nodes.asel) = some 3 := by decide
theorem test_aselC1 : (answer .aselC1 (onPorts selectPorts)).map (·.nodes.asel) = some 2 := by decide
theorem test_aselZero : (answer (.aselZero 1) (wires { (default : Nodes) with asel := 9 })).map (·.nodes.asel) = some 0 := by
  decide
theorem test_bselC2 : (answer .bselC2 (onPorts selectPorts)).map (·.nodes.bsel) = some 11 := by decide
theorem test_bselC1 : (answer .bselC1 (onPorts selectPorts)).map (·.nodes.bsel) = some 7 := by decide
theorem test_dgateOff : (answer .dgateOff (onPorts selectPorts)).map (·.nodes.deff) = some 0 := by decide
theorem test_dgateOn : (answer .dgateOn (onPorts selectPorts)).map (·.nodes.deff) = some 4 := by decide

/-- Wires before the pre-adder. -/
def addends (asel : BitVec 30) (deff : BitVec 25) : State := wires { (default : Nodes) with asel := asel, deff := deff }

/-- R158: 10 + 4 = 14. -/
theorem test_preaddAdd : (answer .preaddAdd (addends 10 4)).map (·.nodes.ad.toInt) = some 14 := by decide
/-- R158: 2^24 − 1 + 1 wraps to −2^24. -/
theorem test_preaddAdd_wraps : (answer .preaddAdd (addends 1 0xFFFFFF)).map (·.nodes.ad.toInt) = some (-16777216) := by
  decide
/-- R159: 4 − 10 = −6. -/
theorem test_preaddSub : (answer .preaddSub (addends 10 4)).map (·.nodes.ad.toInt) = some (-6) := by decide
/-- R159, R160: bits 29 to 25 of A do not reach the pre-adder; −2^24 − 3 wraps. -/
theorem test_preaddSub_view :
    (answer .preaddSub (addends 0x2000003 0x1000000)).map (·.nodes.ad.toInt) = some 16777213 := by decide
/-- R161: 3 × 5. -/
theorem test_mult : (answer .mult (wires { (default : Nodes) with ad := 3, bsel := 5 })).map (·.nodes.m) = some 15 := by
  decide
/-- R161: (−2^24) × (−2^17) = 2^41. -/
theorem test_mult_corner :
    (answer .mult (wires { (default : Nodes) with ad := 0x1000000, bsel := 0x20000 })).map (·.nodes.m)
      = some 0x020000000000 := by decide

/-- Wires with a product and selected operands. -/
def products : State := wires { (default : Nodes) with m := 15, asel := 1, bsel := 2, x := 99, y := 99, z := 99 }

theorem test_xmuxZero : (answer .xmuxZero products).map (·.nodes.x) = some 0 := by decide
theorem test_xmuxM : (answer .xmuxM products).map (·.nodes.x) = some 15 := by decide
theorem test_xmuxMIll : (answer (.xmuxMIll 3) products).map (·.nodes.x) = some 0 := by decide
/-- R173. -/
theorem test_xmuxP :
    (answer .xmuxP (onPorts { (default : Ports) with pfb := 0x00FF00FF00FF })).map (·.nodes.x) = some 0x00FF00FF00FF := by
  decide
/-- R174: 1 and 2 give 262146. -/
theorem test_xmuxAb : (answer .xmuxAb products).map (·.nodes.x) = some 262146 := by decide
/-- R174: all ones give −1. -/
theorem test_xmuxAb_ones :
    (answer .xmuxAb (wires { (default : Nodes) with asel := 0x3FFFFFFF, bsel := 0x3FFFF })).map (·.nodes.x) = some (-1) := by
  decide

theorem test_ymuxZero : (answer .ymuxZero products).map (·.nodes.y) = some 0 := by decide
/-- R176 under `DUP` and under `SUM`. -/
theorem test_ymuxM :
    (answer .ymuxM { products with params := { Config.params with multSplit := .dup } }).map (·.nodes.y) = some 15
    ∧ (answer .ymuxM { products with params := { Config.params with multSplit := .sum } }).map (·.nodes.y) = some 0 := by
  decide
theorem test_ymuxMIll : (answer (.ymuxMIll 0) products).map (·.nodes.y) = some 0 := by decide
/-- R178. -/
theorem test_ymuxOnes : (answer .ymuxOnes products).map (fun t => low48 t.nodes.y) = some 0xFFFFFFFFFFFF := by decide
/-- R179: −2^47. -/
theorem test_ymuxC :
    (answer .ymuxC (onPorts { (default : Ports) with c := 0x800000000000 })).map (·.nodes.y) = some (-140737488355328) := by
  decide

/-- Ports with a cascade, a feedback and a C (R181 to R186). -/
def feedPorts : Ports := { (default : Ports) with pcin := 0x800000000003, pfb := 5, c := 100 }

theorem test_zmuxZero : (answer .zmuxZero products).map (·.nodes.z) = some 0 := by decide
theorem test_zmuxPcin : (answer .zmuxPcin (onPorts feedPorts)).map (·.nodes.z) = some (-140737488355325) := by decide
theorem test_zmuxP : (answer .zmuxP (onPorts feedPorts)).map (·.nodes.z) = some 5 := by decide
theorem test_zmuxC : (answer .zmuxC (onPorts feedPorts)).map (·.nodes.z) = some 100 := by decide
/-- R184, the reference condition met and not met. -/
theorem test_zmuxPcond :
    (answer (.zmuxPcond 0 2) (onPorts feedPorts)).map (·.nodes.z) = some 5
    ∧ (answer (.zmuxPcond 0 3) (onPorts feedPorts)).map (·.nodes.z) = some 0 := by decide
/-- R185: the low 48 bits are 0x60000. -/
theorem test_zmuxPcin17 : (answer .zmuxPcin17 (onPorts feedPorts)).map (fun t => low48 t.nodes.z) = some 0x60000 := by
  decide
/-- R186: 5·2^17. -/
theorem test_zmuxP17 : (answer .zmuxP17 (onPorts feedPorts)).map (·.nodes.z) = some 655360 := by decide
theorem test_zmuxRsvd : (answer .zmuxRsvd products).map (·.nodes.z) = some 0 := by decide

/-- Ports whose cascade is negative, whose feedback is not, and whose carry-out bit is set. -/
def carryPorts : Ports := { (default : Ports) with pcin := 0x800000000000, pfb := 0x7FFFFFFFFFFF, ccofb := 1 }

theorem test_cinCarryin : (answer (.cinCarryin 1) (onPorts default)).map (·.nodes.cin) = some 1 := by decide
/-- R201: 1 for PCIN = 0, 0 for a negative PCIN. -/
theorem test_cinNpcin47 :
    (answer .cinNpcin47 (onPorts default)).map (·.nodes.cin) = some 1
    ∧ (answer .cinNpcin47 (onPorts carryPorts)).map (·.nodes.cin) = some 0 := by decide
theorem test_cinCarrycascin : (answer (.cinCarrycascin 1) (onPorts default)).map (·.nodes.cin) = some 1 := by decide
theorem test_cinPcin47 : (answer .cinPcin47 (onPorts carryPorts)).map (·.nodes.cin) = some 1 := by decide
theorem test_cinCcofb : (answer .cinCcofb (onPorts carryPorts)).map (·.nodes.cin) = some 1 := by decide
theorem test_cinNp47 : (answer .cinNp47 (onPorts carryPorts)).map (·.nodes.cin) = some 1 := by decide
/-- R206: one sign bit set, then both. -/
theorem test_cinA24xb17 :
    (answer .cinA24xb17 (wires { (default : Nodes) with asel := 0x1000000 })).map (·.nodes.cin) = some 1
    ∧ (answer .cinA24xb17 (wires { (default : Nodes) with asel := 0x1000000, bsel := 0x20000 })).map (·.nodes.cin)
        = some 0 := by decide
theorem test_cinP47 : (answer .cinP47 (onPorts carryPorts)).map (·.nodes.cin) = some 0 := by decide

/-- The operands of the arithmetic examples of spec/43_alu.md. -/
def sums : State := wires { (default : Nodes) with x := 5, y := 12, z := 12, cin := 1 }

/-- R221 to R225. -/
theorem test_arithmetic :
    (answer .add3 sums).map (·.p) = some 0x00000000001E ∧ (answer .add3Nz sums).map (·.p) = some 0x000000000005
    ∧ (answer .notAdd3 sums).map (·.p) = some 0xFFFFFFFFFFE1 ∧ (answer .zsub sums).map (·.p) = some 0xFFFFFFFFFFFA
    ∧ (answer (.arithRsvd 4) sums).map (·.p) = some 0 := by decide
/-- R221: −2^47 twice wraps to 0. -/
theorem test_add3_wraps :
    (answer .add3 (wires { (default : Nodes) with y := -140737488355328, z := -140737488355328 })).map (·.p) = some 0 := by
  decide

/-- The operands of the logic examples of spec/43_alu.md. -/
def masks : State := wires { (default : Nodes) with x := 0x00FF00FF00FF, z := 0x0F0F0F0F0F0F, y := 77, cin := 1 }

/-- R228 to R235. -/
theorem test_logic_y0 :
    (answer .xorY0A4 masks).map (·.p) = some 0x0FF00FF00FF0 ∧ (answer .xnorY0A5 masks).map (·.p) = some 0xF00FF00FF00F
    ∧ (answer .xnorY0A6 masks).map (·.p) = some 0xF00FF00FF00F ∧ (answer .xorY0A7 masks).map (·.p) = some 0x0FF00FF00FF0
    ∧ (answer .andY0A12 masks).map (·.p) = some 0x000F000F000F ∧ (answer .andnY0A13 masks).map (·.p) = some 0x00F000F000F0
    ∧ (answer .nandY0A14 masks).map (·.p) = some 0xFFF0FFF0FFF0
    ∧ (answer .ornxY0A15 masks).map (·.p) = some 0xFF0FFF0FFF0F := by decide

/-- R236 to R244. -/
theorem test_logic_y2 :
    (answer .xnorY2A4 masks).map (·.p) = some 0xF00FF00FF00F ∧ (answer .xorY2A5 masks).map (·.p) = some 0x0FF00FF00FF0
    ∧ (answer .xorY2A6 masks).map (·.p) = some 0x0FF00FF00FF0 ∧ (answer .xnorY2A7 masks).map (·.p) = some 0xF00FF00FF00F
    ∧ (answer .orY2A12 masks).map (·.p) = some 0x0FFF0FFF0FFF ∧ (answer .ornY2A13 masks).map (·.p) = some 0xF0FFF0FFF0FF
    ∧ (answer .norY2A14 masks).map (·.p) = some 0xF000F000F000
    ∧ (answer .andnxY2A15 masks).map (·.p) = some 0x0F000F000F00
    ∧ (answer (.logicRsvd ⟨2, 11⟩) masks).map (·.p) = some 0 := by decide

/-- R14, R227, R246 (e): under a table of one cell, XOR at (2, 11), that code is XOR and every other code is reserved. -/
theorem test_logic_table :
    (answer (.logicRsvd ⟨2, 11⟩) { masks with params := { Config.params with logicTable := [⟨⟨2, 11⟩, fnXor⟩] } }).map (·.p)
      = some 0x0FF00FF00FF0
    ∧ (answer .orY2A12 { masks with params := { Config.params with logicTable := [⟨⟨2, 11⟩, fnXor⟩] } }).map (·.p)
      = some 0 := by decide

/-! ### Commands -/

/-- The operands of an INIT. -/
def initArgs (cfg : Cfg) (rows cols depth : Nat) : Args :=
  { Args.reset with cfg := cfg, rows := rows, cols := cols, depth := depth }

/-- A state with operands on the command port. -/
def asked (g : Args) : State := { State.reset with args := g }

/-- A LIVE tile in the reset state. -/
def live (cfg : Cfg) (rows cols depth : Nat) : State :=
  { State.reset with tile := some (Tile.fresh cfg Args.reset.fmt rows cols depth) }

/-- R260: five latencies of 1, a 2 × 2 × 3 tile: four lanes, `cycle` 0. -/
theorem test_init :
    (answer .init (asked (initArgs ⟨1, 1, 1, 1, 1, false, false⟩ 2 2 3))).bind (·.tile.map fun t => (t.lanes.length, t.cycle))
      = some (4, 0) := by decide
/-- R260: a zero dimension gives CONFIG. -/
theorem test_init_config :
    (answer .init (asked (initArgs default 0 2 3))).map (fun t => (t.result.status, t.tile.isSome))
      = some (some .config, false) := by decide

/-- R265: FREE twice. -/
theorem test_free : ((answer .free (live default 1 1 1)).bind (answer .free)).map (·.tile.isNone) = some true := by decide

/-- R263: RESET after a STEP. -/
theorem test_reset :
    ((answer .step ((live default 1 1 1).withStepArgs 0 0 ⟨true, 0x40400000, 0x40800000, 0⟩)).bind (answer .reset)).bind
        (fun t => observeAcc t 0 0) = some 0 := by decide +kernel

/-- R286: 3.0 · 4.0 + 0.5 = 12.5 on lane (0, 1), with `out_valid`. -/
theorem test_step :
    (answer .step ((live default 2 2 1).withStepArgs 0 1 ⟨true, 0x40400000, 0x40800000, 0x3F000000⟩)).bind
        (fun t => (observeAcc t 0 1).map fun a => (a, observeCycle t, t.result.out))
      = some (0x41480000, some 1, some ⟨0x41480000, true⟩) := by decide +kernel
/-- R299: FLT_MAX · 2 with saturation: the output is clamped, the accumulator is not. -/
theorem test_step_saturates :
    (answer .step ((live ⟨0, 0, 0, 0, 0, false, true⟩ 1 1 1).withStepArgs 0 0 ⟨true, 0x7F7FFFFF, 0x40000000, 0⟩)).bind
        (fun t => (observeAcc t 0 0).map fun a => (a, t.result.out))
      = some (0x7F800000, some ⟨0x7F7FFFFF, true⟩) := by decide +kernel

/-- The arrays of R333's scenario, one after the other. -/
def scenarioArrays : GemmArrays := ⟨⟨0, 6⟩, ⟨6, 6⟩, some ⟨12, 2⟩, ⟨14, 4⟩, 3, 2, 2⟩

/-- Arrays on the command port. -/
def offering (g : GemmArrays) : Args :=
  { Args.reset with lhs := some g.lhs, rhs := some g.rhs, bias := g.bias, dst := some g.dst, lda := g.lda, ldb := g.ldb,
                    ldd := g.ldd }

/-- LHS = [1, 2, 3, −1, −2, −3], RHS = [4, …, 9], BIAS = [0.5, −0.5] (R333). -/
def scenarioMemory : Memory :=
  [0x3F800000#32, 0x40000000#32, 0x40400000#32, 0xBF800000#32, 0xC0000000#32, 0xC0400000#32, 0x40800000#32, 0x40A00000#32,
    0x40C00000#32, 0x40E00000#32, 0x41000000#32, 0x41100000#32, 0x3F000000#32, 0xBF000000#32].zipIdx.foldl
    (fun m q => m.writeElem q.2 q.1) []

/-- R333: DST = [40.5, 45.5, −39.5, −46.5], and `cycle` = 16 (R330). -/
theorem test_gemm :
    (answer .gemm { live default 2 2 3 with mem := scenarioMemory, args := offering scenarioArrays }).map
        (fun t => (t.mem.readElem 14, t.mem.readElem 15, t.mem.readElem 16, t.mem.readElem 17, observeCycle t))
      = some (0x42220000, 0x42360000, 0xC21E0000, 0xC23A0000, some 16) := by decide +kernel

/-- R96 on R333's scenario (R = C = 2, K = 3, L = 0, a bias): the first five events are the reads and the STEP of tap
(0, 0, 0) and LHS of tap (0, 0, 1); the history has 12 + 12 + 4 reads, 16 STEPs and 4 writes, the last one of element 3. -/
theorem test_gemm_history :
    let s : State := { live default 2 2 3 with mem := scenarioMemory, args := offering scenarioArrays }
    (gemmHistory s).take 5
      = [.read .lhs 0 0x3F800000, .read .rhs 0 0x40800000, .read .bias 0 0x3F000000,
          .step 0 0 ⟨true, 0x3F800000, 0x40800000, 0x3F000000⟩ ⟨0x40900000, true⟩, .read .lhs 0 0x3F800000]
    ∧ (gemmHistory s).length = 48 ∧ (gemmHistory s).getLast? = some (.write 3 0xC23A0000) := by decide +kernel

/-- R321: K = 3 and `lda` = 2 give BOUNDS. -/
theorem test_gemm_bounds :
    (answer .gemm { live default 2 2 3 with args := offering { scenarioArrays with lda := 2 } }).map (·.result.status)
      = some (some .bounds) := by decide +kernel

/-- R128, U8. -/
theorem test_reserved_commands :
    exec .cmdRsvd5 State.reset = .refused .reservedCommand ∧ exec .cmdRsvd6 State.reset = .refused .reservedCommand
    ∧ exec .cmdRsvd7 State.reset = .refused .reservedCommand := ⟨rfl, rfl, rfl⟩

/-- R124: the status codes. -/
theorem test_status_codes : [Status.ok, .config, .alloc, .bounds].map statusCode = [0, 1, 2, 3] := by decide

/-- R47: no valid input yet; a valid input under way; its output; the next bubble. -/
theorem test_lane_phase :
    lanePhase [(false, false)] = .idle ∧ lanePhase [(true, false)] = .filling
    ∧ lanePhase [(true, false), (false, true)] = .valid
    ∧ lanePhase [(true, false), (false, true), (false, false)] = .filling := by decide

/-- R47: on a run from reset, INIT with `lat_mul` 1, a valid STEP and a bubble on lane (0, 0), RESET: Idle, Filling, Valid, and
Idle again; the other lane stays Idle. -/
theorem test_phase_of_a_run :
    let cfg : Cfg := ⟨1, 0, 0, 0, 0, false, false⟩
    let s : State := { State.reset with requests :=
      [.command 0 (initArgs cfg 1 2 1), .command 3 { Args.reset with inputValid := true },
        .command 3 Args.reset, .command 1 Args.reset] }
    [1, 2, 3, 4].map (fun n => phaseAfter 0 0 n s) = [.idle, .filling, .valid, .idle]
    ∧ phaseAfter 0 1 3 s = .idle := by decide +kernel

/-- R280: the oldest slot leaves, the newest enters at the front. -/
theorem test_push : push [1, 2, 3] 9 = (3, [9, 1, 2]) := by decide

/-! ### Hypotheses that are met: one witness for each statement that has some -/

/-- An idle machine with one evaluation asked for. -/
def evaluation (k : Control) : State := { State.reset with requests := [.evaluate default k] }

/-- A LIVE state is good. -/
theorem live_inv (cfg : Cfg) {rows cols depth : Nat} (hr : rows ≠ 0) (hc : cols ≠ 0) (hk : depth ≠ 0) :
    (live cfg rows cols depth).inv :=
  ⟨⟨List.Pairwise.nil, by simp [live, State.reset]⟩,
    fun t ht => by cases ht; exact Tile.fresh_wf hr hc hk rfl, fun h => absurd rfl h⟩

/-- The tile of `live`. -/
theorem live_tile (cfg : Cfg) (rows cols depth : Nat) :
    (live cfg rows cols depth).tile = some (Tile.fresh cfg Args.reset.fmt rows cols depth) := rfl

theorem witness_DecodeOfEncodeIsTheInstruction :
    (Instr.arithRsvd 4).wellFormed = true ∧ (Instr.arithRsvd 4).opClass = some .alu
    ∧ Instr.gemm.wellFormed = true ∧ Instr.gemm.opClass = none := by decide

theorem witness_StepRunsTheDecodedInstruction :
    (∃ s t : State, s.activity = .evaluating .alu ∧ exec (decode (.control .alu s.ctl.pack)) s = .next t)
    ∧ (∃ s t : State, s.activity = .commanded 2 ∧ exec (decode (.command 2)) s = .next t)
    ∧ (∃ s : State, s.activity = .commanded 7 ∧ exec (decode (.command 7)) s = .refused .reservedCommand)
    ∧ ((evaluation default).activity = .idle ∧ (evaluation default).requests = [.evaluate default default])
    ∧ (∃ s : State, s.activity = .idle ∧ s.requests = [.command 2 Args.reset])
    ∧ (State.reset.activity = .idle ∧ State.reset.requests = []) :=
  ⟨⟨{ State.reset with activity := .evaluating .alu }, _, rfl, rfl⟩, ⟨{ State.reset with activity := .commanded 2 }, _, rfl, rfl⟩,
    ⟨{ State.reset with activity := .commanded 7 }, rfl, rfl⟩, ⟨rfl, rfl⟩,
    ⟨{ State.reset with requests := [.command 2 Args.reset] }, rfl, rfl⟩, ⟨rfl, rfl⟩⟩

/-- One bit, clear and set; the top bit of 30 set. -/
theorem witness_SignExtensionProperty :
    (1 ≤ 1 ∧ (0 : Int).testBit (1 - 1) = false) ∧ (1 ≤ 1 ∧ (1 : Int).testBit (1 - 1) = true)
    ∧ (1 ≤ 30 ∧ (0x20000000 : Int).testBit (30 - 1) = true) := by decide

theorem witness_TheDGate : State.reset.nodes.deff = 0 := rfl

theorem witness_TheMultiplierIsExact : ∃ s t : State, exec .mult s = .next t := ⟨State.reset, _, rfl⟩

theorem witness_TheMultiplierOnY :
    ({ State.reset with params := { Config.params with multSplit := .dup } } : State).params.multSplit = .dup
    ∧ ({ State.reset with params := { Config.params with multSplit := .sum } } : State).params.multSplit = .sum := ⟨rfl, rfl⟩

theorem witness_TheArithmeticFunctions :
    sums.nodes.x + sums.nodes.y + sums.nodes.z + sums.nodes.cin.toNat = 30
    ∧ sums.nodes.x + sums.nodes.y + (-sums.nodes.z - 1) + sums.nodes.cin.toNat = 5
    ∧ sums.nodes.z - (sums.nodes.x + sums.nodes.y + sums.nodes.cin.toNat) = -6
    ∧ (0x00003F#21).getLsbD 2 = true := by decide

theorem witness_TheLogicFunctions :
    masks.params.logicTable = State.reset.params.logicTable
    ∧ ((0x000232#21).getLsbD 2 = false ∧ (0x000232#21).getLsbD 3 = false)
    ∧ ((0x00023A#21).getLsbD 2 = false ∧ (0x00023A#21).getLsbD 3 = true) := by decide

/-- A code that the table does not define; ALUMODE at both ends of the reserved codes of each mode; a code that no row names. -/
theorem witness_ReservedAluCodesGiveZero :
    lookupLogic State.reset.params.logicTable ⟨2, 11⟩ = none
    ∧ (∀ k ∈ ([⟨4, 4, 0, 0, 0, 0⟩, ⟨12, 15, 0, 0, 0, 0⟩, ⟨0, 0, 0, 0, 0, 0⟩, ⟨8, 11, 0, 0, 0, 0⟩] : List Control),
      (evaluation k).activity = .idle ∧ (evaluation k).requests = [.evaluate default k]
      ∧ ((k.opmode.getLsbD 2 = true ∧ 4 ≤ k.alumode.toNat)
          ∨ (k.opmode.getLsbD 2 = false
            ∧ lookupLogic (evaluation k).params.logicTable ⟨k.opmode.extractLsb' 2 2, k.alumode⟩ = none)))
    ∧ (⟨2, 11⟩ : LogicCode).ysel.getLsbD 0 = false := by decide +kernel

theorem witness_TenStepsGiveTheCollectedResult :
    (evaluation default).activity = .idle ∧ (evaluation default).requests = .evaluate default default :: [] := ⟨rfl, rfl⟩

/-- A LIVE machine with an old result asks for the same evaluation. -/
theorem witness_ThePOfAnEvaluationIsAFunctionOfItsInputs :
    (evaluation default).activity = .idle
    ∧ ({ live default 1 1 1 with p := 7, requests := [.evaluate default default] } : State).activity = .idle
    ∧ (evaluation default).params = (live default 1 1 1).params := ⟨rfl, rfl, rfl⟩

theorem witness_TheTwoReadingsOfTheProduct :
    ∀ k ∈ ([⟨0b0110101, 0, 0, 0, 0, 0⟩, ⟨0b1110101, 0, 0, 0, 0, 0⟩] : List Control),
      (evaluation k).requests = [.evaluate default k] ∧ k.opmode.toNat % 16 = 5 ∧ k.alumode = 0 := by decide +kernel

/-- A finite value, an infinity and a NaN (R285). -/
theorem witness_SaturationClampsToTheFiniteRange :
    isFinite 0x7F7FFFFF = true ∧ isFinite 0x7F800000 = false ∧ isFinite 0xFFC00000 = false := by decide

/-- Zero times infinity; infinity times 2; −0.0 times 2; at the reference value after reset (R283). -/
theorem witness_TheSpecialProducts :
    State.reset.params.fmulFn = .ieee
    ∧ (isZero 0 = true ∧ isInf 0x7F800000 = true)
    ∧ (isNaN (fmul State.reset.params 0x7F800000 0x40000000) = false ∧ isInf 0x7F800000 = true)
    ∧ (isNaN (fmul State.reset.params 0x80000000 0x40000000) = false ∧ isZero 0x80000000 = true) := by decide +kernel

/-- Infinity and 2; −0.0 is no NaN; at the reference value after reset (R284). -/
theorem witness_TheSpecialSums :
    State.reset.params.faddFn = .ieee
    ∧ (isInf 0x7F800000 = true ∧ isFinite 0x40000000 = true
      ∧ isNaN (fadd State.reset.params 0x7F800000 0x40000000) = false)
    ∧ isFinite 0x80000000 = true ∧ isNaN 0x80000000 = false := by decide +kernel

/-- The value of a normal number from its fields. -/
theorem value_of_fields {v : F32} {e m : Nat} {s : Bool} (hs : v.getLsbD 31 = s) (he : f32Exp v = e) (h0 : e ≠ 0)
    (hm : f32Frac v = m) : f32Value v = (if s then -1 else 1) * ((m + 2 ^ 23 : ℚ) * 2 ^ ((e : ℤ) - 150)) := by
  unfold f32Value
  rw [hs, he, hm, if_neg h0]

theorem value_one : f32Value 0x3F800000 = 1 := by
  rw [value_of_fields (s := false) (e := 127) (m := 0) (by decide) (by decide) (by decide) (by decide)]
  norm_num

theorem value_max : f32Value 0x7F7FFFFF = 2 ^ 128 - 2 ^ 104 := by
  rw [value_of_fields (s := false) (e := 254) (m := 8388607) (by decide) (by decide) (by decide) (by decide)]
  norm_num

theorem value_min : f32Value 0xFF7FFFFF = -(2 ^ 128 - 2 ^ 104) := by
  rw [value_of_fields (s := true) (e := 254) (m := 8388607) (by decide) (by decide) (by decide) (by decide)]
  norm_num

theorem value_half_ulp : f32Value 0x73000000 = 2 ^ 103 := by
  rw [value_of_fields (s := false) (e := 230) (m := 0) (by decide) (by decide) (by decide) (by decide)]
  norm_num

/-- 18631 · 2^50. -/
theorem value_factor : f32Value 0x5F918E00 = 18631 * 2 ^ 50 := by
  rw [value_of_fields (s := false) (e := 191) (m := 1150464) (by decide) (by decide) (by decide) (by decide)]
  norm_num

/-- 1801 · 2^53. -/
theorem value_cofactor : f32Value 0x5F612000 = 1801 * 2 ^ 53 := by
  rw [value_of_fields (s := false) (e := 190) (m := 6365184) (by decide) (by decide) (by decide) (by decide)]
  norm_num

/-- 1.0 and 1.0 are in range; the product of 18631 · 2^50 and 1801 · 2^53 is 2^128 − 2^103, the boundary itself; the largest
finite value squared is beyond it. -/
theorem witness_TheProductIsTheNearestFloat :
    (isFinite 0x3F800000 = true ∧ |f32Value 0x3F800000 * f32Value 0x3F800000| < 2 ^ 128 - 2 ^ 103)
    ∧ (isFinite 0x5F918E00 = true ∧ isFinite 0x5F612000 = true
      ∧ |f32Value 0x5F918E00 * f32Value 0x5F612000| = 2 ^ 128 - 2 ^ 103)
    ∧ (isFinite 0x7F7FFFFF = true ∧ 2 ^ 128 - 2 ^ 103 ≤ |f32Value 0x7F7FFFFF * f32Value 0x7F7FFFFF|) := by
  refine ⟨⟨by decide, ?_⟩, ⟨by decide, by decide, ?_⟩, by decide, ?_⟩
  · norm_num [value_one]
  · norm_num [value_factor, value_cofactor]
  · norm_num [value_max]

/-- 1.0 and 1.0; the largest finite value and 2^103, whose sum is the boundary itself; the least finite value twice. -/
theorem witness_TheSumIsTheNearestFloat :
    (isFinite 0x3F800000 = true ∧ |f32Value 0x3F800000 + f32Value 0x3F800000| < 2 ^ 128 - 2 ^ 103)
    ∧ (isFinite 0x7F7FFFFF = true ∧ isFinite 0x73000000 = true
      ∧ f32Value 0x7F7FFFFF + f32Value 0x73000000 = 2 ^ 128 - 2 ^ 103)
    ∧ (isFinite 0xFF7FFFFF = true ∧ f32Value 0xFF7FFFFF + f32Value 0xFF7FFFFF ≤ -(2 ^ 128 - 2 ^ 103)) := by
  refine ⟨⟨by decide, ?_⟩, ⟨by decide, by decide, ?_⟩, by decide, ?_⟩
  · norm_num [value_one]
  · norm_num [value_max, value_half_ulp]
  · norm_num [value_min]

/-- The two boundary operands do round to an infinity (R283, R284). -/
theorem test_boundary_overflows :
    fmul State.reset.params 0x5F918E00 0x5F612000 = 0x7F800000
    ∧ fadd State.reset.params 0x7F7FFFFF 0x73000000 = 0x7F800000 := by decide +kernel

/-- The smallest tile. -/
theorem witness_InitCreatesAResetTile :
    (asked (initArgs default 1 1 1)).tile = none ∧ (asked (initArgs default 1 1 1)).args.fmt.kind = .fp32
    ∧ (asked (initArgs default 1 1 1)).args.rows ≠ 0 ∧ (asked (initArgs default 1 1 1)).args.cols ≠ 0
    ∧ (asked (initArgs default 1 1 1)).args.depth ≠ 0 ∧ (asked (initArgs default 1 1 1)).args.allocOk = true := by decide

/-- Each dimension zero; none zero and no allocation. -/
theorem witness_InitChecksConfigBeforeAlloc :
    (initArgs default 0 1 1).rows = 0 ∧ (initArgs default 1 0 1).cols = 0 ∧ (initArgs default 1 1 0).depth = 0
    ∧ (asked { initArgs default 1 1 1 with allocOk := false }).tile = none
    ∧ (asked { initArgs default 1 1 1 with allocOk := false }).args.fmt.kind = .fp32
    ∧ ({ initArgs default 1 1 1 with allocOk := false } : Args).depth ≠ 0 := by decide

/-- A success and a failure. -/
theorem witness_InitIsAllOrNothing :
    (∃ t : State, exec .init (asked (initArgs default 1 1 1)) = .next t)
    ∧ ∃ t : State, exec .init (asked (initArgs default 1 1 0)) = .next t := ⟨⟨_, rfl⟩, _, rfl⟩

theorem witness_ResetClearsTheTile :
    ∃ (t : Tile) (l : Lane), (live default 1 1 1).tile = some t ∧ t.lanes[0]? = some l := ⟨_, _, rfl, rfl⟩

theorem witness_ResetIsIdempotent :
    (∃ t : State, exec .reset (live default 1 1 1) = .next t)
    ∧ ∃ t : State, exec .init (asked (initArgs default 1 1 1)) = .next t ∧ t.result.status = some .ok :=
  ⟨⟨_, rfl⟩, _, rfl, rfl⟩

theorem witness_FreeReleasesTheTile :
    State.reset.tile = none ∧ (∃ t : State, exec .free (live default 1 1 1) = .next t)
    ∧ (initArgs default 4 5 6).fmt.kind = .fp32 := ⟨rfl, ⟨_, rfl⟩, rfl⟩

theorem witness_CommandsOutsideTheLifecycleAreRefused :
    (∃ t : Tile, (live default 1 1 1).tile = some t)
    ∧ State.reset.tile = none
    ∧ (asked { Args.reset with fmt := ⟨.other 0, 16, 5, 10, 0, 15⟩ }).args.fmt.kind ≠ .fp32 := ⟨⟨_, rfl⟩, rfl, by decide⟩

/-- The first coordinate out of range in each direction, and the last one in range, of a 2 × 3 tile. -/
theorem witness_StepIsItsPseudocode :
    ∃ t : Tile, (live default 2 3 1).tile = some t
      ∧ t.rows ≤ ((live default 2 3 1).withStepArgs 2 0 default).args.row
      ∧ t.cols ≤ ((live default 2 3 1).withStepArgs 0 3 default).args.col
      ∧ ((live default 2 3 1).withStepArgs 1 2 default).args.row < t.rows
      ∧ ((live default 2 3 1).withStepArgs 1 2 default).args.col < t.cols := ⟨_, rfl, by decide⟩

/-- The last lane of a 2 × 3 tile is stepped, and the first lane differs from it. -/
theorem witness_StepTouchesOneLaneOnly :
    (live default 2 3 1).inv ∧ ((live default 2 3 1).withStepArgs 1 2 default).inv
    ∧ (∃ u : State, exec .step ((live default 2 3 1).withStepArgs 1 2 default) = .next u)
    ∧ ((0, 0) : Nat × Nat) ≠ (1, 2) :=
  ⟨live_inv _ (by decide) (by decide) (by decide), live_inv _ (by decide) (by decide) (by decide), ⟨_, rfl⟩, by decide⟩

/-- A valid STEP and two bubbles on the last lane. -/
theorem witness_ThePipelineFills :
    (live ⟨1, 1, 1, 1, 1, false, false⟩ 2 3 1).inv
    ∧ (∃ t : Tile, (live ⟨1, 1, 1, 1, 1, false, false⟩ 2 3 1).tile = some t ∧ 1 < t.rows ∧ 2 < t.cols)
    ∧ (⟨true, 0, 0, 0⟩ : LaneInput).iv = true
    ∧ ∀ b ∈ ([⟨false, 0, 0, 0⟩, ⟨false, 1, 1, 1⟩] : List LaneInput), b.iv = false :=
  ⟨live_inv _ (by decide) (by decide) (by decide), ⟨_, rfl, by decide⟩, rfl, by decide⟩

theorem witness_TheTimingLaw :
    (live ⟨1, 0, 2, 0, 1, true, true⟩ 2 3 1).inv
    ∧ ∃ t : Tile, (live ⟨1, 0, 2, 0, 1, true, true⟩ 2 3 1).tile = some t ∧ 1 < t.rows ∧ 2 < t.cols :=
  ⟨live_inv _ (by decide) (by decide) (by decide), _, rfl, by decide⟩

/-- A LIVE tile stepped and one cleared, INIT, FREE, and a micro-operation. -/
theorem witness_OnlyTheLifecycleCommandsCreateAndDestroy :
    (∃ u t', exec .step ((live default 1 1 1).withStepArgs 0 0 default) = .next u ∧ u.tile = some t')
    ∧ (∃ u, exec .init (asked (initArgs default 1 1 1)) = .next u ∧ u.tile ≠ none)
    ∧ (∃ u, exec .free (live default 1 1 1) = .next u ∧ u.tile = none)
    ∧ (∃ u, exec .add3 (live default 1 1 1) = .next u ∧ Instr.add3.opClass ≠ none) :=
  ⟨⟨_, _, rfl, rfl⟩, ⟨_, rfl, Option.some_ne_none _⟩, ⟨_, rfl, rfl⟩, _, rfl, by decide⟩

theorem witness_OnlyGemmReachesMemory : Instr.step ≠ .gemm := by decide

/-- CONFIG, ALLOC and BOUNDS. -/
theorem witness_AFailingCommandChangesNothing :
    Instr.init.opClass = none ∧ Instr.step.opClass = none
    ∧ (∃ t, exec .init (asked (initArgs default 1 0 1)) = .next t ∧ t.result.status = some .config)
    ∧ (∃ t, exec .init (asked { initArgs default 1 1 1 with allocOk := false }) = .next t ∧ t.result.status = some .alloc)
    ∧ (∃ t, exec .step ((live default 1 1 1).withStepArgs 1 0 default) = .next t ∧ t.result.status = some .bounds) :=
  ⟨rfl, rfl, ⟨_, rfl, rfl⟩, ⟨_, rfl, rfl⟩, _, rfl, rfl⟩

/-! #### GEMM -/

/-- A 2 × 2 × 3 tile with arrays on the command port. -/
def multiplying (cfg : Cfg) (g : GemmArrays) : State := { live cfg 2 2 3 with args := offering g }

/-- Arrays contain their indices, in a form that can be evaluated. -/
theorem contains_of_longEnough {g : GemmArrays} {cfg : Cfg} (h : longEnough g (Tile.fresh cfg Args.reset.fmt 2 2 3) = true) :
    g.containIndices (Tile.fresh cfg Args.reset.fmt 2 2 3) := by
  simp only [longEnough, Bool.and_eq_true] at h
  obtain ⟨⟨⟨h1, h2⟩, h3⟩, h4⟩ := h
  have h1 := of_decide_eq_true h1
  have h2 := of_decide_eq_true h2
  have h3 := of_decide_eq_true h3
  simp only [Tile.fresh] at h1 h2 h3
  refine ⟨fun i k hi hk => ?_, fun k j hk hj => ?_, fun b hb j hj => ?_, fun i j hi hj => ?_⟩
  · have : i * g.lda ≤ 1 * g.lda := Nat.mul_le_mul_right _ (by simp only [Tile.fresh] at hi; omega)
    simp only [Tile.fresh] at hk
    omega
  · have : k * g.ldb ≤ 2 * g.ldb := Nat.mul_le_mul_right _ (by simp only [Tile.fresh] at hk; omega)
    simp only [Tile.fresh] at hj
    omega
  · rw [hb] at h4
    have h4 := of_decide_eq_true h4
    simp only [Tile.fresh] at h4 hj
    omega
  · have : i * g.ldd ≤ 1 * g.ldd := Nat.mul_le_mul_right _ (by simp only [Tile.fresh] at hi; omega)
    simp only [Tile.fresh] at hj
    omega

/-- The scenario's arrays are separate. -/
theorem scenario_separate (cfg : Cfg) (lda ldb ldd : Nat) :
    GemmArrays.separate { scenarioArrays with lda := lda, ldb := ldb, ldd := ldd } (Tile.fresh cfg Args.reset.fmt 2 2 3) := by
  intro i j hi hj
  simp only [Tile.fresh, scenarioArrays, ArrayRef.owns] at *
  have : i * ldd ≥ 0 := Nat.zero_le _
  refine ⟨by omega, by omega, fun b hb => ?_⟩
  cases hb
  rintro ⟨h1, h2⟩
  simp only at h2
  omega

/-- Each stride one below its dimension. -/
theorem witness_GemmChecksTheStridesFirst :
    ∀ q ∈ ([(2, 2, 2), (3, 1, 2), (3, 2, 1)] : List (Nat × Nat × Nat)),
      ∃ (s : State) (t : Tile) (g : GemmArrays), s.inv ∧ s.tile = some t ∧ s.args.offers g ∧ g.containIndices t
        ∧ g.separate t ∧ ¬ g.stridesLegal t ∧ g.lda = q.1 ∧ g.ldb = q.2.1 ∧ g.ldd = q.2.2 := by
  intro q hq
  refine ⟨multiplying default { scenarioArrays with lda := q.1, ldb := q.2.1, ldd := q.2.2 }, _, _,
    live_inv _ (by decide) (by decide) (by decide), rfl, ⟨rfl, rfl, rfl, rfl, rfl, rfl, rfl⟩,
    contains_of_longEnough ?_, scenario_separate _ _ _ _, ?_, rfl, rfl, rfl⟩ <;>
  · simp only [List.mem_cons, List.not_mem_nil, or_false] at hq
    rcases hq with rfl | rfl | rfl <;> simp [longEnough, covers, scenarioArrays, Tile.fresh, GemmArrays.stridesLegal]

/-- Each required array absent. -/
theorem witness_GemmRefusesBadArrays_absent :
    ∀ a ∈ ([{ offering scenarioArrays with lhs := none }, { offering scenarioArrays with rhs := none },
        { offering scenarioArrays with dst := none }] : List Args),
      a.lhs = none ∨ a.rhs = none ∨ a.dst = none := by decide

/-- Each array one element too short. -/
theorem witness_GemmRefusesBadArrays_short :
    ∀ g ∈ ([{ scenarioArrays with lhs := ⟨0, 5⟩ }, { scenarioArrays with rhs := ⟨6, 5⟩ },
        { scenarioArrays with bias := some ⟨12, 1⟩ }, { scenarioArrays with dst := ⟨14, 3⟩ }] : List GemmArrays),
      (live default 2 2 3).inv ∧ (multiplying default g).args.offers g
        ∧ ¬ g.containIndices (Tile.fresh default Args.reset.fmt 2 2 3) := by
  intro g hg
  refine ⟨live_inv _ (by decide) (by decide) (by decide), ⟨rfl, rfl, rfl, rfl, rfl, rfl, rfl⟩, fun h => ?_⟩
  simp only [List.mem_cons, List.not_mem_nil, or_false] at hg
  rcases hg with rfl | rfl | rfl | rfl
  · exact absurd (h.1 1 2 (by decide) (by decide)) (by decide)
  · exact absurd (h.2.1 2 1 (by decide) (by decide)) (by decide)
  · exact absurd (h.2.2.1 ⟨12, 1⟩ rfl 1 (by decide)) (by decide)
  · exact absurd (h.2.2.2 1 1 (by decide) (by decide)) (by decide)

/-- The first element of DST on the last one of LHS, of RHS and of BIAS. -/
theorem witness_GemmRefusesBadArrays_overlap :
    ∀ g ∈ ([{ scenarioArrays with dst := ⟨5, 4⟩ }, { scenarioArrays with dst := ⟨11, 4⟩ },
        { scenarioArrays with dst := ⟨13, 4⟩ }] : List GemmArrays),
      (multiplying default g).args.offers g ∧ g.containIndices (Tile.fresh default Args.reset.fmt 2 2 3)
        ∧ ¬ g.separate (Tile.fresh default Args.reset.fmt 2 2 3) := by
  intro g hg
  simp only [List.mem_cons, List.not_mem_nil, or_false] at hg
  rcases hg with rfl | rfl | rfl
  · refine ⟨⟨rfl, rfl, rfl, rfl, rfl, rfl, rfl⟩, contains_of_longEnough (by decide), fun h => ?_⟩
    exact (h 0 0 (by decide) (by decide)).1 (by simp [ArrayRef.owns, scenarioArrays])
  · refine ⟨⟨rfl, rfl, rfl, rfl, rfl, rfl, rfl⟩, contains_of_longEnough (by decide), fun h => ?_⟩
    exact (h 0 0 (by decide) (by decide)).2.1 (by simp [ArrayRef.owns, scenarioArrays])
  · refine ⟨⟨rfl, rfl, rfl, rfl, rfl, rfl, rfl⟩, contains_of_longEnough (by decide), fun h => ?_⟩
    exact (h 0 0 (by decide) (by decide)).2.2 ⟨12, 2⟩ rfl (by simp [ArrayRef.owns, scenarioArrays])

/-- The scenario of R333 on a tile with every latency 1 (so that `lat_mul` ≥ 1, R398) meets the hypotheses of
GemmCompletesWithThePostState, GemmWritesTheMatrixProduct, GemmWritesNothingOutsideDst,
TheBiasIsLostBehindAMultiplyLatency and TheEventHistoryOfAGemm (of its failing clause, those of
witness_GemmChecksTheStridesFirst). -/
theorem witness_GemmCompletes :
    ∃ (s : State) (t : Tile) (g : GemmArrays), s.inv ∧ s.tile = some t ∧ s.args.offers g ∧ g.containIndices t
      ∧ g.separate t ∧ g.stridesLegal t ∧ 1 ≤ t.cfg.latMul ∧ s.params.addendAlign = .atAddInput ∧ g.bias ≠ none :=
  ⟨multiplying ⟨1, 1, 1, 1, 1, false, false⟩ scenarioArrays, _, _, live_inv _ (by decide) (by decide) (by decide), rfl,
    ⟨rfl, rfl, rfl, rfl, rfl, rfl, rfl⟩, contains_of_longEnough (by decide), scenario_separate _ 3 2 2,
    by simp [GemmArrays.stridesLegal, scenarioArrays, Tile.fresh], by simp [Tile.fresh], rfl, by simp [scenarioArrays]⟩

/-- A fresh tile and one whose cycle counter has run. -/
theorem witness_GemmForgetsThePriorTile :
    ∃ (s : State) (t₁ t₂ : Tile) (g : GemmArrays), t₁.wf s.params ∧ t₂.wf s.params ∧ t₁ ≠ t₂ ∧ t₁.rows = t₂.rows
      ∧ t₁.cols = t₂.cols ∧ t₁.depth = t₂.depth ∧ t₁.cfg = t₂.cfg ∧ t₁.fmt = t₂.fmt ∧ s.args.offers g
      ∧ g.containIndices t₁ ∧ g.separate t₁ ∧ g.stridesLegal t₁ :=
  ⟨multiplying default scenarioArrays, Tile.fresh default Args.reset.fmt 2 2 3,
    { Tile.fresh default Args.reset.fmt 2 2 3 with cycle := 9 }, scenarioArrays,
    Tile.fresh_wf (by decide) (by decide) (by decide) rfl,
    Tile.fresh_wf (cfg := default) (fmt := Args.reset.fmt) (rows := 2) (cols := 2) (depth := 3) (by decide) (by decide)
      (by decide) rfl,
    by simp [Tile.fresh], rfl, rfl, rfl, rfl, rfl, ⟨rfl, rfl, rfl, rfl, rfl, rfl, rfl⟩,
    contains_of_longEnough (by decide), scenario_separate _ 3 2 2,
    by simp [GemmArrays.stridesLegal, scenarioArrays, Tile.fresh]⟩

theorem witness_TheTapsFollowTheSequencer :
    1 ≤ 1 ∧ (gemmTaps 1 1 1 0)[0]? = some ⟨.main, 0, 0, 0⟩ ∧ (0 : Nat) < 1 := by decide

theorem witness_EveryStepKeepsTheInvariant :
    ∃ s t : State, s.inv ∧ step s = .next t ∧ s.tile.isSome = true :=
  ⟨{ live default 1 1 1 with activity := .commanded 1 }, _,
    live_inv default (rows := 1) (cols := 1) (depth := 1) (by decide) (by decide) (by decide), rfl, rfl⟩

/-- One command of each kind on the port: RESET, a successful and a failing INIT, a STEP on the lane, one on another lane and
one out of range, a GEMM, a micro-operation; and a run that ends with a LIVE tile. -/
theorem witness_TheLanePhaseFollowsTheRun :
    (∃ u, step { live default 1 2 1 with activity := .commanded 1 } = .next u)
    ∧ (∃ u, step { asked (initArgs default 1 1 1) with activity := .commanded 0 } = .next u ∧ u.result.status = some .ok)
    ∧ (∃ u, step { asked (initArgs default 0 1 1) with activity := .commanded 0 } = .next u
        ∧ u.result.status = some .config)
    ∧ (∀ c ∈ ([0, 1, 2] : List Nat), ∃ u, step { (live default 1 2 1).withStepArgs 0 c default with activity := .commanded 3 }
        = .next u)
    ∧ (∃ (s : State) (t : Tile) (g : GemmArrays), s.inv ∧ s.tile = some t ∧ s.args.offers g ∧ g.containIndices t
        ∧ g.separate t ∧ g.stridesLegal t ∧ s.activity = .commanded 4 ∧ 1 < t.rows ∧ 1 < t.cols)
    ∧ (∃ s : State, s.activity = .evaluating .cin)
    ∧ State.reset.inv ∧ State.reset.tile = none
    ∧ ∃ (u : State) (t : Tile), runSteps 1 { State.reset with requests := [.command 0 (initArgs default 1 1 1)] } = .next u
        ∧ u.tile = some t ∧ 0 < t.rows ∧ 0 < t.cols
        ∧ phaseAfter 0 0 1 { State.reset with requests := [.command 0 (initArgs default 1 1 1)] } = .idle := by
  refine ⟨⟨_, rfl⟩, ⟨_, rfl, rfl⟩, ⟨_, rfl, rfl⟩, ?_, ?_, ⟨{ State.reset with activity := .evaluating .cin }, rfl⟩,
    ⟨⟨List.Pairwise.nil, by simp [State.reset]⟩, fun _ ht => (nomatch ht), fun h => absurd rfl h⟩, rfl,
    ⟨_, _, rfl, rfl, by decide, by decide, rfl⟩⟩
  · intro c hc
    simp only [List.mem_cons, List.not_mem_nil, or_false] at hc
    rcases hc with rfl | rfl | rfl <;> exact ⟨_, rfl⟩
  · exact ⟨{ multiplying default scenarioArrays with activity := .commanded 4 }, _, _,
      live_inv default (rows := 2) (cols := 2) (depth := 3) (by decide) (by decide) (by decide), rfl,
      ⟨rfl, rfl, rfl, rfl, rfl, rfl, rfl⟩, contains_of_longEnough (by decide), scenario_separate default 3 2 2,
      by simp [GemmArrays.stridesLegal, scenarioArrays, Tile.fresh], rfl, by simp [Tile.fresh], by simp [Tile.fresh]⟩

end Sys2Proof.Tests
end

section
/-! SUPPORT. STEP and the grid of lanes (spec/45_tile_step.md): what a STEP in range answers, which lanes it writes, and what
its answer depends on. -/

namespace Sys2Proof.Machine

/-- The grid of a good state's tile has R·C lanes (R261). -/
theorem State.inv.lanes_length {s : State} {t : Tile} (h : s.inv) (ht : s.tile = some t) :
    t.lanes.length = t.rows * t.cols := by
  obtain ⟨-, htile, -⟩ := h
  obtain ⟨-, -, -, -, hlen, -, -⟩ := htile t ht
  exact hlen

/-- The lane that a STEP addresses, after it (R286). -/
theorem tileStep_lane_addressed {p : Params} {t : Tile} {r c : Nat} (x : LaneInput)
    (hlen : t.lanes.length = t.rows * t.cols) (hr : r < t.rows) (hc : c < t.cols) :
    (tileStep p r c x t).1.lane r c = (laneStep p t.cfg x (t.lane r c)).1 := by
  rw [tileStep_lane x hlen hr hc hc, if_pos ⟨rfl, rfl⟩]

/-- Every lane that a STEP does not address, after it (R45). -/
theorem tileStep_lane_other {p : Params} {t : Tile} {r c r' c' : Nat} (x : LaneInput)
    (hlen : t.lanes.length = t.rows * t.cols) (hr : r < t.rows) (hc : c < t.cols) (hc' : c' < t.cols)
    (hne : (r', c') ≠ (r, c)) : (tileStep p r c x t).1.lane r' c' = t.lane r' c' := by
  rw [tileStep_lane x hlen hr hc hc', if_neg fun h => hne (Prod.ext h.1 h.2)]

/-- STEP with the coordinate in range: it completes with one cycle of the addressed lane (R286). -/
theorem exec_step_of_inRange {s : State} {t : Tile} (ht : s.tile = some t) (hr : s.args.row < t.rows)
    (hc : s.args.col < t.cols) :
    exec .step s = .next (returnOut
      (s.withTile (some (tileStep s.params s.args.row s.args.col s.args.laneInput t).1))
      (tileStep s.params s.args.row s.args.col s.args.laneInput t).2) := by
  have hin : ¬ (t.rows ≤ s.args.row ∨ t.cols ≤ s.args.col) := by omega
  show execStep s = _
  unfold execStep
  rw [ht]
  exact if_neg hin

/-- A STEP writes the addressed lane only (R45); out of range it writes none (R294). -/
theorem exec_step_lane_other {s u : State} {t : Tile} (hs : s.inv) (ht : s.tile = some t)
    (hu : exec .step s = .next u) :
    ∃ t' : Tile, u.tile = some t' ∧ ∀ r c : Nat, c < t.cols → (r, c) ≠ (s.args.row, s.args.col) →
      t'.lane r c = t.lane r c := by
  obtain ⟨v, hv, hcases⟩ := execStep_next hu
  obtain rfl : t = v := Option.some.inj (ht.symm.trans hv)
  rcases hcases with ⟨-, rfl⟩ | ⟨hr, hc, rfl⟩
  case inl => exact ⟨t, ht, fun _ _ _ _ => rfl⟩
  case inr =>
    exact ⟨_, rfl, fun r c hc' hne => tileStep_lane_other _ (hs.lanes_length ht) hr hc hc' hne⟩

/-- A STEP reads the addressed lane only (R45): two states that agree on it, on the parameters, the configuration and the
command's operands give the same result and the same addressed lane. -/
theorem exec_step_agree {s₁ s₂ : State} {t₁ t₂ : Tile} (hs₁ : s₁.inv) (hs₂ : s₂.inv) (ht₁ : s₁.tile = some t₁)
    (ht₂ : s₂.tile = some t₂) (hargs : s₁.args = s₂.args) (hparams : s₁.params = s₂.params) (hcfg : t₁.cfg = t₂.cfg)
    (hr₁ : s₁.args.row < t₁.rows) (hc₁ : s₁.args.col < t₁.cols) (hr₂ : s₁.args.row < t₂.rows)
    (hc₂ : s₁.args.col < t₂.cols)
    (hlane : t₁.lane s₁.args.row s₁.args.col = t₂.lane s₁.args.row s₁.args.col) :
    ∃ (u₁ u₂ : State) (t₁' t₂' : Tile), exec .step s₁ = .next u₁ ∧ exec .step s₂ = .next u₂
      ∧ u₁.tile = some t₁' ∧ u₂.tile = some t₂' ∧ u₁.result = u₂.result
      ∧ t₁'.lane s₁.args.row s₁.args.col = t₂'.lane s₁.args.row s₁.args.col := by
  have hcycle : laneStep s₁.params t₁.cfg s₁.args.laneInput (t₁.lane s₁.args.row s₁.args.col)
      = laneStep s₂.params t₂.cfg s₁.args.laneInput (t₂.lane s₁.args.row s₁.args.col) := by
    rw [hparams, hcfg, hlane]
  have hstep₂ := exec_step_of_inRange ht₂ (hargs ▸ hr₂) (hargs ▸ hc₂)
  rw [← hargs] at hstep₂
  refine ⟨_, _, _, _, exec_step_of_inRange ht₁ hr₁ hc₁, hstep₂, rfl, rfl, ?result, ?lane⟩
  case result => rw [returnOut_result, returnOut_result, tileStep_out, tileStep_out, hcycle]
  case lane =>
    rw [tileStep_lane_addressed _ (hs₁.lanes_length ht₁) hr₁ hc₁,
      tileStep_lane_addressed _ (hs₂.lanes_length ht₂) hr₂ hc₂, hcycle]

/-- Settles O41: what a STEP writes (`exec_step_lane_other`) and what it reads (`exec_step_agree`). -/
theorem stepTouchesOneLaneOnly : Obligations.StepTouchesOneLaneOnly := by
  unfold Obligations.StepTouchesOneLaneOnly
  refine ⟨fun s u t hs ht hu => ?writes, ?reads⟩
  case writes =>
    obtain ⟨t', ht', hother⟩ := exec_step_lane_other hs ht hu
    exact ⟨t', ht', fun r c _ hc hne => hother r c hc hne⟩
  case reads =>
    intro s₁ s₂ t₁ t₂ hs₁ hs₂ ht₁ ht₂ hargs hparams hrows hcols hcfg hr hc hlane
    exact exec_step_agree hs₁ hs₂ ht₁ ht₂ hargs hparams hcfg hr hc (hrows ▸ hr) (hcols ▸ hc) hlane

end Sys2Proof.Machine
end

section
/-! SUPPORT. Which instructions reach memory (spec/20_memory.md R80, R81). An instruction that neither reads nor writes memory
commutes with the exchange of the whole memory; that one law says both. -/

namespace Sys2Proof.Machine

/-- The answer with another memory in its next state. -/
def Answer.withMem (m : Memory) : Answer → Answer
  | .next t => .next (t.withMem m)
  | .fault r => .fault r
  | .refused r => .refused r

@[simp] theorem Answer.withMem_next (m : Memory) (t : State) :
    Answer.withMem m (.next t) = .next (t.withMem m) := rfl
@[simp] theorem Answer.withMem_refused (m : Memory) (r : Refusal) : Answer.withMem m (.refused r) = .refused r := rfl

/-! ### The commands on a state with another memory (R81) -/

theorem execInit_withMem (s : State) (m : Memory) : execInit (s.withMem m) = Answer.withMem m (execInit s) := by
  unfold execInit
  rw [State.withMem_tile, State.withMem_args]
  cases s.tile with
  | some t => rfl
  | none =>
    simp only [apply_ite (Answer.withMem m)]
    rfl

theorem execReset_withMem (s : State) (m : Memory) : execReset (s.withMem m) = Answer.withMem m (execReset s) := by
  unfold execReset
  rw [State.withMem_tile]
  cases s.tile with
  | none => rfl
  | some t => rfl

theorem execFree_withMem (s : State) (m : Memory) : execFree (s.withMem m) = Answer.withMem m (execFree s) := rfl

theorem execStep_withMem (s : State) (m : Memory) : execStep (s.withMem m) = Answer.withMem m (execStep s) := by
  unfold execStep
  rw [State.withMem_tile, State.withMem_args, State.withMem_params]
  cases s.tile with
  | none => rfl
  | some t =>
    simp only [apply_ite (Answer.withMem m)]
    rfl

/-! ### Every instruction but GEMM -/

/-- An instruction other than GEMM commutes with the exchange of the memory. The micro-operations of the slice, which are
the last case, compute their wires from ports, wires and parameters alone (R80). -/
theorem exec_withMem {i : Instr} (hi : i ≠ .gemm) (s : State) (m : Memory) :
    exec i (s.withMem m) = Answer.withMem m (exec i s) := by
  cases i with
  | gemm => exact absurd rfl hi
  | init => exact execInit_withMem s m
  | reset => exact execReset_withMem s m
  | free => exact execFree_withMem s m
  | step => exact execStep_withMem s m
  | cmdRsvd5 | cmdRsvd6 | cmdRsvd7 => rfl
  | _ => rfl

/-- An instruction other than GEMM keeps the memory: `exec_withMem` with the memory exchanged for itself. -/
theorem exec_next_mem {i : Instr} (hi : i ≠ .gemm) {s t : State} (h : exec i s = .next t) : t.mem = s.mem := by
  have hself : exec i s = Answer.withMem s.mem (exec i s) := exec_withMem hi s s.mem
  rw [h, Answer.withMem_next, Host.Outcome.next.injEq] at hself
  rw [hself, State.withMem_mem]

/-- Settles O47: nothing is written (`exec_next_mem`), nothing is read (`exec_withMem`), and no fault exists. -/
theorem onlyGemmReachesMemory : Obligations.OnlyGemmReachesMemory := by
  unfold Obligations.OnlyGemmReachesMemory
  intro i s m hi
  have hexchange : exec i { s with mem := m } = Answer.withMem m (exec i s) := exec_withMem hi s m
  rw [hexchange]
  cases hs : exec i s with
  | next t => exact ⟨exec_next_mem hi hs, rfl⟩
  | fault r => exact nomatch r
  | refused r => rfl

end Sys2Proof.Machine
end

section
/-! SUPPORT. The integer operand forms `zext` and `sext` (spec/00_scope.md R16; spec/40_operand_select.md R163) at every width:
the recursion of `zext` on the width, the top declared bit as a bound on `zext`, and the two cases of `sext`. -/

namespace Sys2Proof.Machine

/-! ### Bits of an integer -/

/-- A bit of the infinite two's-complement expansion, by floor division. -/
theorem int_testBit_eq_decide_ediv (v : Int) (k : Nat) : v.testBit k = decide (v / 2 ^ k % 2 = 1) := by
  cases v with
  | ofNat m =>
    show m.testBit k = _
    rw [Nat.testBit_eq_decide_div_mod_eq, Int.ofNat_eq_natCast]
    norm_cast
  | negSucc m =>
    have hdiv : Int.negSucc m / 2 ^ k = -(((m / 2 ^ k : Nat) : Int) + 1) := by
      rw [Int.negSucc_ediv m (by positivity)]
      norm_cast
    show (!m.testBit k) = _
    rw [Nat.testBit_eq_decide_div_mod_eq, hdiv, ← decide_not, decide_eq_decide]
    omega

/-! ### `zext` -/

theorem zext_nonneg (n : Nat) (v : Int) : 0 ≤ zext n v := Int.emod_nonneg v (by positivity)

theorem zext_lt (n : Nat) (v : Int) : zext n v < 2 ^ n := Int.emod_lt_of_pos v (by positivity)

/-- One more bit of width adds that bit at its weight. -/
theorem zext_succ (k : Nat) (v : Int) : zext (k + 1) v = zext k v + if v.testBit k then 2 ^ k else 0 := by
  have hsplit : zext (k + 1) v = zext k v + 2 ^ k * (v / 2 ^ k % 2) := by
    simp only [zext, pow_succ, Int.emod_def, ← Int.ediv_ediv_of_nonneg (show (0 : Int) ≤ 2 ^ k by positivity)]
    ring
  rw [hsplit, int_testBit_eq_decide_ediv]
  obtain h | h := Int.emod_two_eq (v / 2 ^ k) <;> simp [h]

/-- The top declared bit is clear exactly where `zext` is in the lower half of its range. -/
theorem testBit_top_eq_false_iff (k : Nat) (v : Int) :
    v.testBit k = false ↔ 2 * zext (k + 1) v < 2 ^ (k + 1) := by
  have hnonneg := zext_nonneg k v
  have hlt := zext_lt k v
  rw [zext_succ, pow_succ]
  cases v.testBit k with
  | false => simp only [Bool.false_eq_true, if_false, true_iff]; linarith
  | true => simp only [Bool.true_eq_false, if_true, false_iff]; linarith

/-! ### `sext` -/

/-- `sext` keeps the low bits, at width 0 too. -/
@[simp] theorem zext_sext (n : Nat) (v : Int) : zext n (sext n v) = zext n v := by
  simp only [zext, sext]
  split
  · exact Int.emod_emod v _
  · rw [Int.sub_emod_right, Int.emod_emod]

/-- `sext` by the top declared bit: set, it weighs −2^(n−1) and not 2^(n−1). -/
theorem sext_succ (k : Nat) (v : Int) :
    sext (k + 1) v = if v.testBit k then zext (k + 1) v - 2 ^ (k + 1) else zext (k + 1) v := by
  have htop := testBit_top_eq_false_iff k v
  show (if 2 * zext (k + 1) v < 2 ^ (k + 1) then zext (k + 1) v else zext (k + 1) v - 2 ^ (k + 1)) = _
  cases hbit : v.testBit k with
  | false => rw [if_pos (htop.mp hbit)]; rfl
  | true => rw [if_neg (by simp [← htop, hbit])]; rfl

/-- Settles O7: `zext_sext`, and the two cases of `sext_succ` with the range of `zext`. -/
theorem signExtensionProperty : Obligations.SignExtensionProperty := by
  unfold Obligations.SignExtensionProperty
  intro n v hn
  obtain ⟨k, rfl⟩ := Nat.exists_eq_add_of_le' hn
  rw [Nat.add_sub_cancel]
  refine ⟨zext_sext _ v, fun hclear => ?_, fun hset => ?_⟩
  · have heq : sext (k + 1) v = zext (k + 1) v := by rw [sext_succ, hclear]; rfl
    exact ⟨heq, heq ▸ zext_nonneg _ v⟩
  · have heq : sext (k + 1) v = zext (k + 1) v - 2 ^ (k + 1) := by rw [sext_succ, hset]; rfl
    exact ⟨heq, heq ▸ sub_neg_of_lt (zext_lt _ v)⟩

end Sys2Proof.Machine
end

section
/-! SUPPORT. The X mux (spec/41_opmode_muxes.md R170 to R174): a word as the two forms of R16 read it, the concatenation `A:B`
as arithmetic, and which OPMODE bits of a control word select X. -/

namespace Sys2Proof.Machine

/-! ### A word under `zext` and `sext` (R16) -/

/-- The unsigned reading of a word has no bit above its width. -/
@[simp] theorem zext_toNat {n : Nat} (b : BitVec n) : zext n b.toNat = b.toNat := by
  rw [zext]
  exact_mod_cast Nat.mod_eq_of_lt b.isLt

/-- The two's-complement reading of a word is `sext` of its unsigned one. -/
theorem toInt_eq_sext_toNat {n : Nat} (b : BitVec n) : b.toInt = sext n b.toNat := by
  have hlow : (b.toNat : Int) % 2 ^ n = b.toNat := zext_toNat b
  simp only [sext, hlow, BitVec.toInt_eq_toNat_cond]
  norm_cast

/-- At its own width `zext` takes the two's-complement reading of a word back to the unsigned one. -/
@[simp] theorem zext_toInt {n : Nat} (b : BitVec n) : zext n b.toInt = b.toNat := by
  rw [toInt_eq_sext_toNat, zext_sext, zext_toNat]

/-- The upper word of a concatenation weighs 2 to the width of the lower one. -/
theorem toNat_append_eq_mul_add {m n : Nat} (a : BitVec m) (b : BitVec n) :
    (a ++ b).toNat = a.toNat * 2 ^ n + b.toNat := by
  rw [BitVec.toNat_append, ← Nat.shiftLeft_add_eq_or_of_lt b.isLt, Nat.shiftLeft_eq]

/-- `A:B` by arithmetic on the two selected operands (R174). -/
theorem ab_eq_sext (s : State) :
    ab s = sext 48 (zext 30 s.nodes.asel.toInt * 2 ^ 18 + zext 18 s.nodes.bsel.toInt) := by
  rw [zext_toInt, zext_toInt, ab, toInt_eq_sext_toNat, toNat_append_eq_mul_add]
  push_cast
  rfl

/-! ### The selection of X by a control word (R115, R129) -/

@[simp] theorem xsel_unpack (cw : ControlWord) : (Control.unpack cw).xsel = cw.extractLsb' 0 2 :=
  BitVec.extractLsb'_extractLsb'_of_le (by decide)

@[simp] theorem ysel_unpack (cw : ControlWord) : (Control.unpack cw).ysel = cw.extractLsb' 2 2 :=
  BitVec.extractLsb'_extractLsb'_of_le (by decide)

theorem decodeClass_xmux (cw : ControlWord) : decodeClass .xmux cw = decodeXmux (Control.unpack cw) := rfl

theorem decodeXmux_zero {k : Control} (h : k.xsel.toNat = 0) : decodeXmux k = .xmuxZero := by
  simp only [decodeXmux, h]

theorem decodeXmux_m {k : Control} (hx : k.xsel.toNat = 1) (hy : k.ysel.toNat = 1) : decodeXmux k = .xmuxM := by
  simp only [decodeXmux, hx]
  exact if_pos (BitVec.eq_of_toNat_eq hy)

/-- The multiplier selected on X without Y (R172). -/
theorem decodeXmux_mIll {k : Control} (hx : k.xsel.toNat = 1) (hy : k.ysel.toNat ≠ 1) :
    decodeXmux k = .xmuxMIll k.ysel := by
  simp only [decodeXmux, hx]
  exact if_neg fun h => hy (congrArg BitVec.toNat h)

theorem decodeXmux_p {k : Control} (h : k.xsel.toNat = 2) : decodeXmux k = .xmuxP := by
  simp only [decodeXmux, h]

/-- Two bits have one code left (R174). -/
theorem decodeXmux_ab {k : Control} (h0 : k.xsel.toNat ≠ 0) (h1 : k.xsel.toNat ≠ 1) (h2 : k.xsel.toNat ≠ 2) :
    decodeXmux k = .xmuxAb := by
  have hlt : k.xsel.toNat < 4 := k.xsel.isLt
  have h3 : k.xsel.toNat = 3 := by omega
  simp only [decodeXmux, h3]

/-- Settles O12: four selections write their node by definition, `A:B` by `ab_eq_sext`; the decoder row by row. -/
theorem theXMux : Obligations.TheXMux := by
  unfold Obligations.TheXMux
  refine ⟨fun _ => rfl, fun _ => rfl, fun _ _ => rfl, fun _ => rfl, fun s => ?_, fun cw => ?_⟩
  · rw [← ab_eq_sext]
    rfl
  · rw [decodeClass_xmux, ← xsel_unpack, ← ysel_unpack]
    split
    next hx => exact decodeXmux_zero hx
    next hx hy => exact decodeXmux_m hx hy
    next hx hy => exact decodeXmux_mIll hx hy
    next hx => exact decodeXmux_p hx
    next h0 h1 h2 _ => exact decodeXmux_ab h0 h1 h2

end Sys2Proof.Machine
end

section
/-! SUPPORT. The arithmetic mode of the ALU (spec/43_alu.md R220 to R225): the sum that each function writes, in the integer
terms of the spec, and the decoder where CW[2] is set. -/

namespace Sys2Proof.Machine

/-! ### What the ALU writes (R221 to R225, R245) -/

/-- The ALU's write changes `R`, and `P` as the low 48 bits of it (R245); everything else stands. -/
theorem writeR_eq (v : Int) (s : State) :
    writeR v s = .next { s with nodes := { s.nodes with r := v }, p := BitVec.ofInt 48 v } := rfl

theorem exec_add3 (s : State) :
    exec .add3 s = writeR (s.nodes.x + s.nodes.y + s.nodes.z + s.nodes.cin.toNat) s :=
  congrArg (writeR · s) (add_right_comm _ _ s.nodes.z)

theorem exec_add3Nz (s : State) :
    exec .add3Nz s = writeR (s.nodes.x + s.nodes.y + (-s.nodes.z - 1) + s.nodes.cin.toNat) s :=
  congrArg (writeR · s) (add_right_comm _ _ (-s.nodes.z - 1))

theorem exec_notAdd3 (s : State) :
    exec .notAdd3 s = writeR (-(s.nodes.x + s.nodes.y + s.nodes.z + s.nodes.cin.toNat) - 1) s :=
  congrArg (fun sum => writeR (-sum - 1) s) (add_right_comm _ _ s.nodes.z)

theorem exec_zsub (s : State) :
    exec .zsub s = writeR (s.nodes.z - (s.nodes.x + s.nodes.y + s.nodes.cin.toNat)) s := rfl

theorem exec_arithRsvd (alumode : BitVec 4) (s : State) : exec (.arithRsvd alumode) s = writeR 0 s := rfl

/-! ### The selection of the ALU by a control word (R115, R119, R220) -/

/-- The mode bit OPMODE[2] is CW[2]. -/
@[simp] theorem arith_unpack (cw : ControlWord) : (Control.unpack cw).arith = cw.getLsbD 2 := by
  simp [Control.arith, Control.unpack]

@[simp] theorem alumode_unpack (cw : ControlWord) : (Control.unpack cw).alumode = cw.extractLsb' 7 4 := rfl

theorem decodeAlu_of_arith {k : Control} (h : k.arith = true) : decodeAlu k = decodeArith k.alumode := if_pos h

theorem decodeClass_alu_of_arith {cw : ControlWord} (h : cw.getLsbD 2 = true) :
    decodeClass .alu cw = decodeArith (cw.extractLsb' 7 4) :=
  decodeAlu_of_arith ((arith_unpack cw).trans h)

/-- Settles O19: each function is the write of its sum (`exec_add3` to `exec_arithRsvd`, `writeR_eq`), and the table of the
ALUMODE codes is that of `decodeArith`. -/
theorem theArithmeticFunctions : Obligations.TheArithmeticFunctions := by
  unfold Obligations.TheArithmeticFunctions
  refine ⟨?add3, ?add3Nz, ?zsub, ?reserved, ?decoder⟩
  case add3 =>
    rintro s _ rfl
    exact ⟨by rw [exec_add3, writeR_eq], by rw [exec_notAdd3, writeR_eq]⟩
  case add3Nz =>
    rintro s _ rfl
    rw [exec_add3Nz, writeR_eq]
  case zsub =>
    rintro s _ rfl
    rw [exec_zsub, writeR_eq]
  case reserved =>
    intro s alumode
    rw [exec_arithRsvd, writeR_eq]
    rfl
  case decoder =>
    intro cw h
    rw [decodeClass_alu_of_arith h]
    rfl

end Sys2Proof.Machine
end

section
/-! SUPPORT. The lifecycle of the tile (spec/44_tile_lifecycle.md): when INIT completes, what a cleared lane holds, and what
RESET and FREE answer. -/

namespace Sys2Proof.Machine

/-! ### INIT (R260, R262) -/

/-- On an UNALLOCATED handle INIT with the FP32 kind completes, whatever the dimensions, the configuration and the allocation:
each check that fails returns a status. -/
theorem exec_init_completes {s : State} (ht : s.tile = none) (hk : s.args.fmt.kind = .fp32) : Completes .init s := by
  show ∃ t, execInit s = .next t
  unfold execInit
  rw [ht]
  dsimp only
  rw [if_neg (not_not.2 hk)]
  by_cases hd : s.args.rows = 0 ∨ s.args.cols = 0 ∨ s.args.depth = 0
  case pos => exact ⟨_, if_pos hd⟩
  case neg =>
    rw [if_neg hd]
    by_cases ha : s.args.allocOk = false
    case pos => exact ⟨_, if_pos ha⟩
    case neg => exact ⟨_, if_neg ha⟩

/-- Settles O34: the three answers of `execInit_next`; the tile of the successful one is well formed by `Tile.fresh_wf`. -/
theorem initIsAllOrNothing : Obligations.InitIsAllOrNothing := by
  unfold Obligations.InitIsAllOrNothing
  intro s t h
  obtain ⟨hnone, hkind, hcases⟩ := execInit_next h
  rcases hcases with ⟨-, rfl⟩ | ⟨-, -, rfl⟩ | ⟨⟨hrows, hcols, hdepth⟩, -, rfl⟩
  case inl => exact .inr ⟨.inl rfl, hnone, hnone, rfl⟩
  case inr.inl => exact .inr ⟨.inr rfl, hnone, hnone, rfl⟩
  case inr.inr => exact .inl ⟨rfl, _, rfl, Tile.fresh_wf hrows hcols hdepth hkind⟩

/-! ### RESET (R263) -/

/-- RESET completes on every LIVE tile. -/
theorem exec_reset_of_live {s : State} {t : Tile} (ht : s.tile = some t) :
    exec .reset s = .next (returnOk (s.withTile (some t.cleared))) := by
  show execReset s = _
  unfold execReset
  rw [ht]

/-- Clearing the slots in place keeps the length of each line. -/
theorem Lane.cleared_eq_replicate (l : Lane) :
    l.cleared = ⟨F32.posZero, 0, List.replicate l.mulLine.length MulSlot.zero,
      List.replicate l.addLine.length Slot.zero, List.replicate l.accLine.length Slot.zero,
      List.replicate l.rndLine.length Slot.zero, List.replicate l.satLine.length Slot.zero⟩ := by
  simp only [Lane.cleared, List.map_const']

/-- The lane at an index of the grid, after RESET. -/
theorem Tile.cleared_lanes_getElem? {t : Tile} {n : Nat} {l : Lane} (h : t.lanes[n]? = some l) :
    t.cleared.lanes[n]? = some l.cleared := by
  rw [Tile.cleared_lanes, List.getElem?_map, h, Option.map_some]

/-- Settles O35: RESET's answer (`exec_reset_of_live`), and its lanes one by one (`Lane.cleared_eq_replicate`). -/
theorem resetClearsTheTile : Obligations.ResetClearsTheTile := by
  unfold Obligations.ResetClearsTheTile
  intro s t ht
  refine ⟨t.cleared.lanes, exec_reset_of_live ht, ?length, fun n l hl => ?lane⟩
  case length => rw [Tile.cleared_lanes, List.length_map]
  case lane =>
    rw [Tile.cleared_lanes_getElem? hl, Lane.cleared_eq_replicate]
    rfl

/-! ### FREE (R265) -/

theorem exec_free (s : State) : exec .free s = .next (returnNone (s.withTile none)) := rfl

/-- Settles O37: FREE's answer (`exec_free`) and, for the INIT that follows, `exec_init_completes`. -/
theorem freeReleasesTheTile : Obligations.FreeReleasesTheTile := by
  unfold Obligations.FreeReleasesTheTile
  refine ⟨exec_free, fun s ht => ?noop, fun s t args hfree hkind => ?init⟩
  case noop =>
    rw [exec_free, ← ht, State.withTile_self]
    rfl
  case init =>
    obtain rfl := execFree_next hfree
    exact exec_init_completes rfl hkind

end Sys2Proof.Machine
end

section
/-! SUPPORT. STEP against its pseudocode (spec/45_tile_step.md R280, R281, R286, R294): `push` by slot numbers, one cycle of a
lane as `refLaneStep`, and what STEP answers in range and out of range. -/

namespace Sys2Proof.Machine

/-! ### `push` by slot numbers (R280, R281) -/

/-- A line after a push, slot by slot: the new entry is slot 0, every older one stands a place further back. -/
theorem push_snd_getElem {α : Type*} (line : List α) (x : α) {k : Nat} (hk : k < (push line x).2.length) :
    (push line x).2[k] = (x :: line)[k]'(by rw [push_length] at hk; exact Nat.lt_succ_of_lt hk) := by
  simp only [← push_split line x, List.getElem_append_left hk]

/-- The model's list operations and the spec's slot numbers describe the same shift, whatever the slots hold. -/
theorem push_eq_refPush {α : Type*} [Inhabited α] (line : List α) (x : α) : push line x = refPush line x := by
  unfold refPush
  cases line with
  | nil => rfl
  | cons y rest =>
    rw [if_neg (by simp)]
    refine Prod.ext ?oldest (List.ext_getElem (by simp) fun k hk _ => ?slot)
    case oldest =>
      show (y :: rest).getLast _ = _
      simp [List.getLast_eq_getElem]
    case slot =>
      rw [push_length] at hk
      rw [push_snd_getElem, List.getElem_map, List.getElem_range]
      cases k with
      | zero => rfl
      | succ j => exact (List.getD_eq_getElem _ _ (Nat.lt_of_succ_lt hk)).symm

/-- Settles O42: `push_eq_refPush` at the two kinds of slot, and `push_nil`. -/
theorem pushIsAStrictShift : Obligations.PushIsAStrictShift := by
  unfold Obligations.PushIsAStrictShift
  exact ⟨push_eq_refPush, push_eq_refPush, push_nil⟩

/-! ### One cycle of a lane by the pseudocode (R286 to R292) -/

/-- What enters the MUL line, with the alignment as a condition (R287, R288). -/
theorem mulEntry_eq (p : Params) (x : LaneInput) :
    mulEntry p x = ⟨fmul p x.a x.b, if p.addendAlign = .withProduct then x.addend else F32.posZero, x.iv⟩ := by
  unfold mulEntry
  cases p.addendAlign <;> rfl

/-- The addend at the add stage, with the alignment as a condition (R288). -/
theorem meetingAddend_eq (p : Params) (x : LaneInput) (mo : MulSlot) :
    meetingAddend p x mo = if p.addendAlign = .withProduct then mo.addend else x.addend := by
  unfold meetingAddend
  cases p.addendAlign <;> rfl

/-- The pseudocode's five pushes are those of `laneStep_eq`, stage by stage. -/
theorem refLaneStep_eq_laneStep (p : Params) (cfg : Cfg) (x : LaneInput) (l : Lane) :
    refLaneStep p cfg x l = laneStep p cfg x l := by
  simp only [refLaneStep, ← push_eq_refPush, ← mulEntry_eq, ← meetingAddend_eq]
  rfl

/-! ### What STEP answers (R286, R294) -/

/-- STEP with the coordinate out of range: BOUNDS, and nothing else changes (R294). -/
theorem exec_step_of_outOfRange {s : State} {t : Tile} (ht : s.tile = some t)
    (hout : t.rows ≤ s.args.row ∨ t.cols ≤ s.args.col) : exec .step s = .next (returnErr s .bounds) := by
  show execStep s = _
  unfold execStep
  rw [ht]
  exact if_pos hout

/-- Settles O40: out of range by `exec_step_of_outOfRange`; in range by `exec_step_of_inRange`, whose cycle is the
pseudocode's (`refLaneStep_eq_laneStep`). -/
theorem stepIsItsPseudocode : Obligations.StepIsItsPseudocode := by
  unfold Obligations.StepIsItsPseudocode
  refine fun s t ht => ⟨exec_step_of_outOfRange ht, fun hr hc l out hcycle => ?_⟩
  have hlane : laneStep s.params t.cfg s.args.laneInput (t.lane s.args.row s.args.col) = (l, out) :=
    (refLaneStep_eq_laneStep _ _ _ _).symm.trans hcycle
  rw [exec_step_of_inRange ht hr hc, tileStep_out]
  unfold tileStep
  rw [hlane]
  rfl

end Sys2Proof.Machine
end

section
/-! SUPPORT. How validity runs through one lane (spec/45_tile_step.md R280, R296). The validity bits of the five lines, one
behind the other, shift as one line of L bits; so what a run of STEPs answers on `out_valid` is what stood in the lane, oldest
bit first, and behind it the `input_valid` of the STEPs. -/

namespace Sys2Proof.Machine

/-! ### The validity bits of one lane -/

/-- The validity bits of a lane, from the newest of the MUL line to the oldest of the SAT line. -/
def Lane.valids (l : Lane) : List Bool :=
  l.mulLine.map MulSlot.v ++ (l.addLine.map Slot.v ++ (l.accLine.map Slot.v
    ++ (l.rndLine.map Slot.v ++ l.satLine.map Slot.v)))

/-- What leaves one line stands in front of the line behind it: `push_split` through a field of the slots. -/
theorem push_map_append {α β : Type*} (f : α → β) (line : List α) (x : α) (behind : List β) :
    (push line x).2.map f ++ f (push line x).1 :: behind = f x :: (line.map f ++ behind) := by
  have hsplit : (push line x).2.map f ++ [f (push line x).1] = f x :: line.map f := by
    simpa only [List.map_append, List.map_cons, List.map_nil] using congrArg (List.map f) (push_split line x)
  rw [List.append_cons, hsplit, List.cons_append]

/-- One cycle shifts the validity bits of a lane by one place, through all five lines. -/
theorem laneStep_valids (p : Params) (cfg : Cfg) (x : LaneInput) (l : Lane) :
    (laneStep p cfg x l).1.valids ++ [(laneStep p cfg x l).2.v] = x.iv :: l.valids := by
  have hmul := push_map_append MulSlot.v l.mulLine (mulEntry p x)
  have hadd := push_map_append Slot.v l.addLine
    ⟨fadd p (mulPush p x l).1.d (meetingAddend p x (mulPush p x l).1), (mulPush p x l).1.v⟩
  have hacc := push_map_append Slot.v l.accLine ⟨accNext p x l, (addPush p x l).1.v⟩
  have hrnd := push_map_append Slot.v l.rndLine ⟨roundStage p cfg (accPush p x l).1.d, (accPush p x l).1.v⟩
  have hsat := push_map_append Slot.v l.satLine ⟨satStage cfg (rndPush p cfg x l).1.d, (rndPush p cfg x l).1.v⟩ []
  rw [List.append_nil] at hsat
  rw [laneStep_eq]
  simp only [Lane.valids, List.append_assoc]
  rw [satPush, hsat, rndPush, hrnd, accPush, hacc, addPush, hadd, mulPush, hmul]
  rfl

/-- A fresh lane holds L cleared bits (R53, R261). -/
theorem Lane.fresh_valids (cfg : Cfg) : (Lane.fresh cfg).valids = List.replicate cfg.totalLat false := by
  simp only [Lane.valids, Lane.fresh, List.map_replicate, MulSlot.zero, Slot.zero, List.replicate_append_replicate,
    Cfg.totalLat, Nat.add_assoc]

/-- The LIVE tile of a good state is well formed. -/
theorem State.inv.tile_wf {s : State} {t : Tile} (h : s.inv) (ht : s.tile = some t) : t.wf s.params := by
  obtain ⟨-, htile, -⟩ := h
  exact htile t ht

/-- After RESET every lane of a well-formed tile is fresh (R263). -/
theorem Tile.cleared_lane {p : Params} {t : Tile} (h : t.wf p) (r c : Nat) : t.cleared.lane r c = Lane.fresh t.cfg := by
  rw [Tile.cleared_eq_fresh h]
  exact List.getElem?_getD_replicate_default_eq ..

/-! ### A run of cycles of one lane -/

/-- Successive cycles of one lane: the lane after them and what each answered. -/
def laneRun (p : Params) (cfg : Cfg) : List LaneInput → Lane → Lane × List Slot
  | [], l => (l, [])
  | x :: xs, l =>
    let first := laneStep p cfg x l
    let more := laneRun p cfg xs first.1
    (more.1, first.2 :: more.2)

@[simp] theorem laneRun_nil (p : Params) (cfg : Cfg) (l : Lane) : laneRun p cfg [] l = (l, []) := rfl

@[simp] theorem laneRun_cons (p : Params) (cfg : Cfg) (x : LaneInput) (xs : List LaneInput) (l : Lane) :
    laneRun p cfg (x :: xs) l =
      ((laneRun p cfg xs (laneStep p cfg x l).1).1,
        (laneStep p cfg x l).2 :: (laneRun p cfg xs (laneStep p cfg x l).1).2) := rfl

@[simp] theorem laneRun_length (p : Params) (cfg : Cfg) (xs : List LaneInput) (l : Lane) :
    (laneRun p cfg xs l).2.length = xs.length := by
  induction xs generalizing l with
  | nil => rfl
  | cons x xs ih => rw [laneRun_cons, List.length_cons, ih, List.length_cons]

/-- The law of the shift over a run, in order of time: first what stood in the lane, oldest bit first, then what the STEPs
brought; the part that has not left is what stands in the lane after the run. -/
theorem laneRun_valids (p : Params) (cfg : Cfg) (xs : List LaneInput) (l : Lane) :
    (laneRun p cfg xs l).2.map Slot.v ++ (laneRun p cfg xs l).1.valids.reverse
      = l.valids.reverse ++ xs.map LaneInput.iv := by
  induction xs generalizing l with
  | nil => simp
  | cons x xs ih =>
    have hshift := congrArg List.reverse (laneStep_valids p cfg x l)
    rw [List.reverse_append, List.reverse_singleton, List.reverse_cons] at hshift
    rw [laneRun_cons]
    calc (laneStep p cfg x l).2.v :: ((laneRun p cfg xs (laneStep p cfg x l).1).2.map Slot.v
          ++ (laneRun p cfg xs (laneStep p cfg x l).1).1.valids.reverse)
      _ = [(laneStep p cfg x l).2.v] ++ (laneStep p cfg x l).1.valids.reverse ++ xs.map LaneInput.iv := by
          rw [ih, List.append_assoc, List.singleton_append]
      _ = l.valids.reverse ++ (x :: xs).map LaneInput.iv := by
          rw [hshift, List.append_assoc, List.singleton_append, List.map_cons]

/-- `out_valid` of each cycle of a run from a fresh lane: L cleared bits, then the `input_valid` of the STEPs. -/
theorem laneRun_fresh_getElem?_v {p : Params} {cfg : Cfg} {xs : List LaneInput} {n : Nat} {o : Slot}
    (ho : (laneRun p cfg xs (Lane.fresh cfg)).2[n]? = some o) :
    (List.replicate cfg.totalLat false ++ xs.map LaneInput.iv)[n]? = some o.v := by
  have hn : n < ((laneRun p cfg xs (Lane.fresh cfg)).2.map Slot.v).length := by
    rw [List.length_map]
    exact (List.getElem?_eq_some_iff.1 ho).1
  rw [← List.reverse_replicate, ← Lane.fresh_valids, ← laneRun_valids, List.getElem?_append_left hn, List.getElem?_map,
    ho, Option.map_some]

/-! ### STEP commands on one lane -/

/-- One STEP command on a lane in range, and the commands after it. -/
theorem stepCommands_cons {r c : Nat} {s : State} {t : Tile} (x : LaneInput) (xs : List LaneInput)
    (ht : s.tile = some t) (hr : r < t.rows) (hc : c < t.cols) :
    stepCommands r c (x :: xs) s =
      (stepCommands r c xs (returnOut ((s.withStepArgs r c x).withTile (some (tileStep s.params r c x t).1))
        (tileStep s.params r c x t).2)).map
        fun q => (q.1, some (tileStep s.params r c x t).2 :: q.2) := by
  have hstep := exec_step_of_inRange (s := s.withStepArgs r c x) ht hr hc
  simp only [stepCommands, hstep]
  rfl

/-- What STEP commands on one lane of a tile do: they complete and run that lane, they count in `cycle` (R293), and they
leave every other lane (R45). -/
theorem stepCommands_eq_laneRun {r c : Nat} (xs : List LaneInput) {s : State} {t : Tile} (ht : s.tile = some t)
    (hlen : t.lanes.length = t.rows * t.cols) (hr : r < t.rows) (hc : c < t.cols) :
    ∃ (u : State) (t' : Tile),
      stepCommands r c xs s = some (u, (laneRun s.params t.cfg xs (t.lane r c)).2.map some)
      ∧ u.tile = some t' ∧ t'.cycle = t.cycle + xs.length
      ∧ t'.lane r c = (laneRun s.params t.cfg xs (t.lane r c)).1
      ∧ ∀ r' c' : Nat, c' < t.cols → (r', c') ≠ (r, c) → t'.lane r' c' = t.lane r' c' := by
  induction xs generalizing s t with
  | nil => exact ⟨s, t, rfl, ht, rfl, rfl, fun _ _ _ _ => rfl⟩
  | cons x xs ih =>
    obtain ⟨u, t', hrun, ht', hcycle, hlane, hother⟩ :=
      ih (s := returnOut ((s.withStepArgs r c x).withTile (some (tileStep s.params r c x t).1))
        (tileStep s.params r c x t).2) rfl (by simp [hlen]) hr hc
    rw [tileStep_lane_addressed x hlen hr hc] at hrun hlane
    refine ⟨u, t', ?_, ht', ?_, hlane, fun r' c' hc' hne => ?_⟩
    · rw [stepCommands_cons x xs ht hr hc, hrun]
      rfl
    · rw [hcycle, tileStep_cycle, List.length_cons]
      omega
    · rw [hother r' c' hc' hne, tileStep_lane_other x hlen hr hc hc' hne]

/-! ### Filling the pipeline (R296) -/

/-- Behind `lat` cleared bits, one set bit and then cleared ones: the set bit is number `lat`. -/
theorem eq_decide_of_getElem?_replicate_append {lat k n : Nat} {v : Bool}
    (hv : (List.replicate lat false ++ true :: List.replicate k false)[n]? = some v) : v = decide (n = lat) := by
  rcases Nat.lt_trichotomy n lat with hn | rfl | hn
  · rw [List.getElem?_append_left (by simpa using hn)] at hv
    rw [decide_eq_false (Nat.ne_of_lt hn)]
    exact List.eq_of_mem_replicate (List.mem_of_getElem? hv)
  · simpa using hv.symm
  · obtain ⟨j, rfl⟩ := Nat.exists_eq_add_of_lt hn
    rw [List.getElem?_append_right (by simp; omega), List.length_replicate, Nat.add_assoc, Nat.add_sub_cancel_left,
      List.getElem?_cons_succ] at hv
    rw [decide_eq_false (Nat.ne_of_gt hn)]
    exact List.eq_of_mem_replicate (List.mem_of_getElem? hv)

/-- One valid cycle of a fresh lane and then bubbles: `out_valid` in cycle L only. -/
theorem laneRun_fresh_bubbles (p : Params) (cfg : Cfg) {x : LaneInput} {bubbles : List LaneInput} (hx : x.iv = true)
    (hb : ∀ b ∈ bubbles, b.iv = false) {n : Nat} (hn : n < bubbles.length + 1) :
    ∃ d : F32, (laneRun p cfg (x :: bubbles) (Lane.fresh cfg)).2[n]? = some ⟨d, decide (n = cfg.totalLat)⟩ := by
  obtain ⟨o, ho⟩ : ∃ o, (laneRun p cfg (x :: bubbles) (Lane.fresh cfg)).2[n]? = some o :=
    ⟨_, List.getElem?_eq_getElem (by rwa [laneRun_length])⟩
  have hbubbles : bubbles.map LaneInput.iv = List.replicate bubbles.length false := List.map_eq_replicate_iff.2 hb
  have hv := laneRun_fresh_getElem?_v ho
  rw [List.map_cons, hx, hbubbles] at hv
  exact ⟨o.d, by rw [ho, ← eq_decide_of_getElem?_replicate_append hv]⟩

/-- Settles O44: RESET makes every lane fresh (`Tile.cleared_lane`), the STEPs run the addressed one
(`stepCommands_eq_laneRun`), and its validity bits shift (`laneRun_fresh_bubbles`). -/
theorem thePipelineFills : Obligations.ThePipelineFills := by
  unfold Obligations.ThePipelineFills
  intro s t r c x bubbles hs ht hr hc hx hb
  have hwf : t.wf s.params := hs.tile_wf ht
  obtain ⟨u, t', hrun, ht', -, -, hother⟩ := stepCommands_eq_laneRun (x :: bubbles)
    (s := returnOk (s.withTile (some t.cleared))) rfl (by simp [hs.lanes_length ht]) hr hc
  rw [Tile.cleared_lane hwf] at hrun
  refine ⟨_, u, t.cleared, t', _, exec_reset_of_live ht, rfl, hrun, by simp, fun n hn => ?valid, ht',
    fun r' c' _ hc' hne => hother r' c' hc' hne⟩
  case valid =>
    rw [List.length_map, laneRun_length] at hn
    obtain ⟨d, hd⟩ := laneRun_fresh_bubbles s.params t.cfg hx hb hn
    exact ⟨d, by rw [List.getElem?_map]; exact congrArg (Option.map some) hd⟩

end Sys2Proof.Machine
end

section
/-! SUPPORT. The order of a GEMM's taps (spec/46_tile_gemm.md R323): the taps against the sequencer's next-state function, the
taps of one lane, and the run of the taps as STEPs of the tile. -/

namespace Sys2Proof.Machine

/-! ### A list that a next-state function runs through -/

/-- Each element of the list is followed by what `next` gives for it; `exit` stands behind the last one. -/
def RunsThrough {α : Type} (next : α → Option α) (exit : Option α) : List α → Prop
  | [] => True
  | q :: qs => next q = qs.head?.or exit ∧ RunsThrough next exit qs

/-- Two runs one after the other, where the first one leaves to where the second one starts. -/
theorem RunsThrough.append {α : Type} {next : α → Option α} {exit : Option α} {xs ys : List α}
    (hxs : RunsThrough next (ys.head?.or exit) xs) (hys : RunsThrough next exit ys) : RunsThrough next exit (xs ++ ys) := by
  induction xs with
  | nil => exact hys
  | cons x xs ih =>
    obtain ⟨hx, hxs⟩ := hxs
    rw [List.cons_append]
    exact ⟨by rw [hx, List.head?_append, Option.or_assoc], ih hxs⟩

/-- A loop of runs: each one leaves to the start of the next one, the last one to the exit of the loop. -/
theorem RunsThrough.flatMap_range {α : Type} {next : α → Option α} {f : Nat → List α} {start : Nat → α}
    (hstart : ∀ k, (f k).head? = some (start k)) {n : Nat} {exit : Option α}
    (h : ∀ k < n, RunsThrough next (if k + 1 < n then some (start (k + 1)) else exit) (f k)) :
    RunsThrough next exit ((List.range n).flatMap f) := by
  induction n generalizing exit with
  | zero => trivial
  | succ n ih =>
    rw [List.range_succ, List.flatMap_append, List.flatMap_singleton]
    refine RunsThrough.append (ih fun k hk => ?inner) (by simpa using h n (by omega))
    case inner =>
      have hk' := h k (by omega)
      rw [if_pos (by omega)] at hk'
      rw [hstart, Option.some_or]
      split
      · exact hk'
      · obtain rfl : n = k + 1 := by omega
        exact hk'

/-- The place behind an element of a run holds what `next` gives for it. -/
theorem RunsThrough.getElem?_succ {α : Type} {next : α → Option α} {qs : List α} (h : RunsThrough next none qs) {n : Nat}
    {q : α} (hq : qs[n]? = some q) : qs[n + 1]? = next q := by
  induction qs generalizing n with
  | nil => simp at hq
  | cons x xs ih =>
    obtain ⟨hx, hxs⟩ := h
    cases n with
    | zero =>
      obtain rfl : x = q := by simpa using hq
      rw [hx, Option.or_none, List.head?_eq_getElem?, List.getElem?_cons_succ]
    | succ n => exact ih hxs hq

/-- A loop that runs at least once starts where its first pass does. -/
theorem head?_flatMap_range {α : Type} {f : Nat → List α} {x : α} (hx : (f 0).head? = some x) {n : Nat} (hn : 1 ≤ n) :
    ((List.range n).flatMap f).head? = some x := by
  obtain ⟨n, rfl⟩ := Nat.exists_eq_add_of_le' hn
  rw [List.range_succ_eq_map, List.flatMap_cons, List.head?_append, hx, Option.some_or]

/-! ### The taps run through the sequencer's positions -/

/-- A pass starts at lane (0, 0). -/
theorem gridPass_head? (phase : SeqPhase) (n : Nat) {rows cols : Nat} (hr : 1 ≤ rows) (hc : 1 ≤ cols) :
    (gridPass phase n rows cols).head? = some ⟨phase, n, 0, 0⟩ := by
  refine head?_flatMap_range ?_ hr
  rw [List.map_eq_flatMap]
  exact head?_flatMap_range rfl hc

/-- A pass follows the next-state function through the grid and leaves to where that goes from the last lane. -/
theorem gridPass_runsThrough {phase : SeqPhase} {n rows cols depth lat : Nat} {exit : Option SeqPos} (hc : 1 ≤ cols)
    (hexit : ∀ i j, ¬ i + 1 < rows → ¬ j + 1 < cols → seqNext rows cols depth lat ⟨phase, n, i, j⟩ = exit) :
    RunsThrough (seqNext rows cols depth lat) exit (gridPass phase n rows cols) := by
  refine RunsThrough.flatMap_range (start := fun i => ⟨phase, n, i, 0⟩) (fun i => ?start) (fun i _ => ?row)
  case start =>
    rw [List.map_eq_flatMap]
    exact head?_flatMap_range rfl hc
  case row =>
    rw [List.map_eq_flatMap]
    refine RunsThrough.flatMap_range (start := fun j => ⟨phase, n, i, j⟩) (fun _ => rfl) (fun j _ => ⟨?_, trivial⟩)
    rw [List.head?_nil, Option.none_or]
    by_cases hj : j + 1 < cols
    · simp [seqNext, hj]
    · by_cases hi : i + 1 < rows
      · simp [seqNext, hi, hj]
      · rw [if_neg hj, if_neg hi, hexit i j hi hj]

/-- The main phase leaves to the first bubble. -/
theorem mainTaps_runsThrough {rows cols depth lat : Nat} (hr : 1 ≤ rows) (hc : 1 ≤ cols) :
    RunsThrough (seqNext rows cols depth lat) (some ⟨.drain, 0, 0, 0⟩) (mainTaps rows cols depth) :=
  RunsThrough.flatMap_range (fun k => gridPass_head? .main k hr hc) fun k _ =>
    gridPass_runsThrough hc fun i j hi hj => by simp [seqNext, hi, hj]

/-- The drain ends the sequence. -/
theorem drainTaps_runsThrough {rows cols depth lat : Nat} (hr : 1 ≤ rows) (hc : 1 ≤ cols) :
    RunsThrough (seqNext rows cols depth lat) none (drainTaps rows cols lat) :=
  RunsThrough.flatMap_range (fun d => gridPass_head? .drain d hr hc) fun d _ =>
    gridPass_runsThrough hc fun i j hi hj => by simp [seqNext, hi, hj]

/-- The taps of a GEMM run through the sequencer's positions, and behind the last one comes the write-back. -/
theorem gemmTaps_runsThrough {rows cols depth lat : Nat} (hr : 1 ≤ rows) (hc : 1 ≤ cols) :
    RunsThrough (seqNext rows cols depth lat) none (gemmTaps rows cols depth lat) := by
  have hdrain : (drainTaps rows cols lat).head? = some ⟨.drain, 0, 0, 0⟩ :=
    head?_flatMap_range (f := fun d => gridPass .drain d rows cols) (gridPass_head? .drain 0 hr hc)
      (Nat.le_add_left 1 lat)
  refine RunsThrough.append ?_ (drainTaps_runsThrough hr hc)
  rw [hdrain, Option.some_or]
  exact mainTaps_runsThrough hr hc

/-- The first tap of a GEMM. -/
theorem gemmTaps_zero {rows cols depth : Nat} (lat : Nat) (hr : 1 ≤ rows) (hc : 1 ≤ cols) (hd : 1 ≤ depth) :
    (gemmTaps rows cols depth lat)[0]? = some ⟨.main, 0, 0, 0⟩ := by
  have hmain : (mainTaps rows cols depth).head? = some ⟨.main, 0, 0, 0⟩ :=
    head?_flatMap_range (f := fun k => gridPass .main k rows cols) (gridPass_head? .main 0 hr hc) hd
  rw [← List.head?_eq_getElem?, gemmTaps, List.head?_append, hmain, Option.some_or]

/-- How many taps a GEMM has: K passes of the main phase and L + 1 of the drain. -/
theorem gemmTaps_length (rows cols depth lat : Nat) :
    (gemmTaps rows cols depth lat).length = rows * cols * (depth + lat + 1) := by
  simp only [gemmTaps, mainTaps, drainTaps, List.length_append, List.length_flatMap, gridPass_length, List.map_const',
    List.sum_replicate, List.length_range, smul_eq_mul]
  ring

/-! ### The taps of one lane -/

/-- No coordinate stands twice in a pass. -/
theorem gridPass_nodup (phase : SeqPhase) (n rows cols : Nat) : (gridPass phase n rows cols).Nodup := by
  have hproduct : gridPass phase n rows cols
      = (List.range rows ×ˢ List.range cols).map fun x => ⟨phase, n, x.1, x.2⟩ := by
    simp [gridPass, SProd.sprod, List.product, List.map_flatMap, Function.comp_def]
  rw [hproduct]
  refine (List.nodup_range.product List.nodup_range).map fun x y hxy => ?_
  injection hxy with _ _ hi hj
  exact Prod.ext hi hj

/-- A pass reaches each lane of the grid once. -/
theorem gridPass_filter_lane (phase : SeqPhase) (n : Nat) {rows cols i j : Nat} (hi : i < rows) (hj : j < cols) :
    (gridPass phase n rows cols).filter (fun q => decide (q.i = i ∧ q.j = j)) = [⟨phase, n, i, j⟩] := by
  have hlane : ∀ q ∈ gridPass phase n rows cols,
      decide (q.i = i ∧ q.j = j) = decide (q = ⟨phase, n, i, j⟩) := fun q hq => by
    obtain ⟨_, _, _, _⟩ := q
    obtain ⟨rfl, rfl, -, -⟩ := mem_gridPass.1 hq
    simp
  rw [List.filter_congr hlane, List.filter_eq,
    List.count_eq_one_of_mem (gridPass_nodup phase n rows cols) (mem_gridPass.2 ⟨rfl, rfl, hi, hj⟩), List.replicate_one]

/-- Repeated passes reach a lane once each, in their order. -/
theorem gridPasses_filter_lane (phase : SeqPhase) (n : Nat) {rows cols i j : Nat} (hi : i < rows) (hj : j < cols) :
    ((List.range n).flatMap fun k => gridPass phase k rows cols).filter (fun q => decide (q.i = i ∧ q.j = j))
      = (List.range n).map fun k => ⟨phase, k, i, j⟩ := by
  simp only [List.filter_flatMap, gridPass_filter_lane phase _ hi hj, List.map_eq_flatMap]

/-- The taps of one lane: its K operand pairs, then L + 1 bubbles. -/
theorem gemmTaps_filter_lane (depth lat : Nat) {rows cols i j : Nat} (hi : i < rows) (hj : j < cols) :
    (gemmTaps rows cols depth lat).filter (fun q => decide (q.i = i ∧ q.j = j))
      = (List.range depth).map (fun k => ⟨.main, k, i, j⟩)
        ++ (List.range (lat + 1)).map (fun d => ⟨.drain, d, i, j⟩) := by
  rw [gemmTaps, List.filter_append, mainTaps, drainTaps, gridPasses_filter_lane .main _ hi hj,
    gridPasses_filter_lane .drain _ hi hj]

/-! ### The taps as STEPs -/

/-- On the lanes a run of taps is the run of their STEPs, whatever the sequencer's own state: STEP does not read it. -/
theorem foldl_gemmTap_lanes (p : Params) (m : Memory) (g : GemmArrays) (qs : List SeqPos) (t : Tile)
    (sq : Option Sequencer) :
    (qs.foldl (gemmTap p m g) { t with seq := sq }).lanes
      = (qs.foldl (fun v q => (tileStep p q.i q.j (tapInput m g q) v).1) t).lanes := by
  induction qs generalizing t sq with
  | nil => rfl
  | cons q qs ih => exact ih (tileStep p q.i q.j (tapInput m g q) t).1 (gemmTap p m g { t with seq := sq } q).seq

/-- Settles O55: the three loops follow the next-state function (`gemmTaps_runsThrough`), each pass reaches a lane once
(`gemmTaps_filter_lane`), and the sequencer's state does not reach the lanes (`foldl_gemmTap_lanes`). -/
theorem theTapsFollowTheSequencer : Obligations.TheTapsFollowTheSequencer := by
  unfold Obligations.TheTapsFollowTheSequencer
  refine ⟨fun rows cols depth lat hr hc hd =>
      ⟨gemmTaps_zero lat hr hc hd, gemmTaps_length rows cols depth lat, ?next, ?lane⟩,
    fun p m g t => foldl_gemmTap_lanes p m g _ t.cleared _⟩
  case next => exact fun n q hq => (gemmTaps_runsThrough hr hc).getElem?_succ hq
  case lane => exact fun i j hi hj => gemmTaps_filter_lane depth lat hi hj

end Sys2Proof.Machine
end

section
/-! SUPPORT. How a command ends (spec/60_exceptions.md R351, R360): an error is taken by `returnErr` and by nothing else, so the
status tells whether the command had an effect. -/

namespace Sys2Proof.Machine

/-- How a command that completes can end (R351, R360): by taking an error, whose whole effect is `returnErr`; with OK; or, as
only FREE does, without a status. -/
theorem exec_command_next {i : Instr} {s t : State} (hi : i.opClass = none) (h : exec i s = .next t) :
    (∃ st : Status, st ≠ .ok ∧ t = returnErr s st) ∨ t.result.status = some .ok
      ∨ (i = .free ∧ t.result.status = none) := by
  cases i with
  | init =>
    obtain ⟨-, -, ⟨-, rfl⟩ | ⟨-, -, rfl⟩ | ⟨-, -, rfl⟩⟩ := execInit_next h
    · exact .inl ⟨.config, by decide, rfl⟩
    · exact .inl ⟨.alloc, by decide, rfl⟩
    · exact .inr (.inl rfl)
  | reset =>
    obtain ⟨_, -, rfl⟩ := execReset_next h
    exact .inr (.inl rfl)
  | free =>
    obtain rfl := execFree_next h
    exact .inr (.inr ⟨rfl, rfl⟩)
  | step =>
    obtain ⟨_, -, ⟨-, rfl⟩ | ⟨-, -, rfl⟩⟩ := execStep_next h
    · exact .inl ⟨.bounds, by decide, rfl⟩
    · exact .inr (.inl rfl)
  | gemm =>
    obtain ⟨_, _, -, -, -, -, ⟨-, rfl⟩ | ⟨-, rfl⟩⟩ := execGemm_next h
    · exact .inl ⟨.bounds, by decide, rfl⟩
    · exact .inr (.inl rfl)
  | cmdRsvd5 | cmdRsvd6 | cmdRsvd7 => cases h
  | _ => cases hi

/-- Settles O48: of the three ends of `exec_command_next` only the error returns CONFIG, ALLOC or BOUNDS, and `returnErr`
writes nothing but the result. -/
theorem aFailingCommandChangesNothing : Obligations.AFailingCommandChangesNothing := by
  unfold Obligations.AFailingCommandChangesNothing
  intro i s t hi h hstatus
  rcases exec_command_next hi h with ⟨st, -, rfl⟩ | hok | ⟨-, hnone⟩
  · rfl
  · simp [hok] at hstatus
  · simp [hnone] at hstatus

end Sys2Proof.Machine
end

section
/-! SUPPORT. The encoding of the control surface (spec/30_encoding.md R111 to R117, R119, R123, R129). A class reads few bits of
the control word: a word's read bits are placed back alone, so that a fact about every word is decided over the class's few
read bits. -/

namespace Sys2Proof

open Machine

/-! ### Packing and unpacking (R115, R129) -/

/-- The packed word as the sum of R115. -/
theorem Control.toNat_pack (k : Control) :
    k.pack.toNat = k.opmode.toNat + k.alumode.toNat * 2 ^ 7 + k.inmode.toNat * 2 ^ 11 + k.carryinsel.toNat * 2 ^ 16
        + k.carryin.toNat * 2 ^ 19 + k.carrycascin.toNat * 2 ^ 20 := by
  simp only [Control.pack, toNat_append_eq_mul_add]
  ring

/-- Each field is one digit of the sum. -/
theorem Control.unpack_pack (k : Control) : Control.unpack k.pack = k := by
  have hsum := k.toNat_pack
  have hopmode := k.opmode.isLt
  have halumode := k.alumode.isLt
  have hinmode := k.inmode.isLt
  have hcarryinsel := k.carryinsel.isLt
  have hcarryin := k.carryin.isLt
  have hcarrycascin := k.carrycascin.isLt
  unfold Control.unpack
  congr 1 <;>
  · refine BitVec.eq_of_toNat_eq ?_
    rw [BitVec.extractLsb'_toNat, Nat.shiftRight_eq_div_pow, hsum]
    omega

theorem Control.pack_unpack (cw : ControlWord) : (Control.unpack cw).pack = cw := by
  have whole : cw.extractLsb' 0 21 = cw := by ext i hi; simp
  simp only [Control.unpack, Control.pack]
  rw [BitVec.extractLsb'_append_extractLsb'_eq_extractLsb' (by decide),
    BitVec.extractLsb'_append_extractLsb'_eq_extractLsb' (by decide),
    BitVec.extractLsb'_append_extractLsb'_eq_extractLsb' (by decide),
    BitVec.extractLsb'_append_extractLsb'_eq_extractLsb' (by decide),
    BitVec.extractLsb'_append_extractLsb'_eq_extractLsb' (by decide)]
  exact whole

/-- The mode bit is set for the two odd Y codes (R220). -/
theorem Control.arith_iff (k : Control) : k.arith = true ↔ k.ysel = 1 ∨ k.ysel = 3 := by
  have table : ∀ opmode : BitVec 7,
      opmode.getLsbD 2 = true ↔ opmode.extractLsb' 2 2 = 1 ∨ opmode.extractLsb' 2 2 = 3 := by decide
  exact table k.opmode

theorem Control.xsel_toNat (k : Control) : k.xsel.toNat = k.opmode.toNat % 4 := by
  simp [Control.xsel, BitVec.extractLsb'_toNat]

theorem Control.ysel_toNat (k : Control) : k.ysel.toNat = k.opmode.toNat / 4 % 4 := by
  simp [Control.ysel, BitVec.extractLsb'_toNat, Nat.shiftRight_eq_div_pow]

theorem Control.zsel_toNat (k : Control) : k.zsel.toNat = k.opmode.toNat / 16 := by
  have hlt : k.opmode.toNat < 128 := k.opmode.isLt
  simp only [Control.zsel, BitVec.extractLsb'_toNat, Nat.shiftRight_eq_div_pow]
  omega

/-- Settles O3: both inverses, the sum (`Control.toNat_pack`) and the four accessors. -/
theorem controlWordPacksTheSixInputs : Obligations.ControlWordPacksTheSixInputs := by
  unfold Obligations.ControlWordPacksTheSixInputs
  exact ⟨fun k => ⟨k.unpack_pack, k.toNat_pack, k.xsel_toNat, k.ysel_toNat, k.zsel_toNat, k.arith_iff⟩,
    Control.pack_unpack⟩

/-! ### The bits that a class reads -/

/-- A field of `w` bits placed at bit `o` of a word of zeros. -/
def placeField (o : Nat) {w : Nat} (b : BitVec w) : ControlWord := b.setWidth 21 <<< o

/-- Masking a word to a field is placing the field's bits. -/
theorem and_placeField_allOnes (cw : ControlWord) (o w : Nat) :
    cw &&& placeField o (BitVec.allOnes w) = placeField o (cw.extractLsb' o w) := by
  ext i hi
  simp only [placeField, BitVec.getElem_and, BitVec.getElem_shiftLeft]
  by_cases ho : i < o
  · simp [ho]
  · have hio : o + (i - o) = i := by omega
    by_cases hw : i - o < w <;> simp [ho, hw, hio, hi, BitVec.getLsbD_eq_getElem]

/-- How many bits of the control word a class reads (R111 to R117, R119). -/
def OpClass.readWidth : OpClass → Nat
  | .asel => 2
  | .bsel | .dgate | .preadd => 1
  | .mult => 0
  | .xmux | .ymux => 4
  | .zmux => 7
  | .cin => 5
  | .alu => 6

/-- The word of zeros but for the bits that the class reads. -/
def OpClass.place : (c : OpClass) → BitVec c.readWidth → ControlWord
  | .asel, b => placeField 11 b
  | .bsel, b => placeField 15 b
  | .dgate, b => placeField 13 b
  | .preadd, b => placeField 14 b
  | .mult, b => placeField 0 b
  | .xmux, b => placeField 0 b
  | .ymux, b => placeField 0 b
  | .zmux, b => placeField 0 b
  | .cin, b => placeField 16 b
  | .alu, b => placeField 2 (b.extractLsb' 0 2) ||| placeField 7 (b.extractLsb' 2 4)

/-- The bits of a word that the class reads. -/
def OpClass.gather : (c : OpClass) → ControlWord → BitVec c.readWidth
  | .asel, cw => cw.extractLsb' 11 2
  | .bsel, cw => cw.extractLsb' 15 1
  | .dgate, cw => cw.extractLsb' 13 1
  | .preadd, cw => cw.extractLsb' 14 1
  | .mult, cw => cw.extractLsb' 0 0
  | .xmux, cw => cw.extractLsb' 0 4
  | .ymux, cw => cw.extractLsb' 0 4
  | .zmux, cw => cw.extractLsb' 0 7
  | .cin, cw => cw.extractLsb' 16 5
  | .alu, cw => (cw.extractLsb' 7 4 ++ cw.extractLsb' 2 2 : BitVec 6)

/-- The positions of the bits that the class reads. -/
def OpClass.readMask (c : OpClass) : ControlWord := c.place (BitVec.allOnes _)

/-- The two fields that a pair of fields was put together from. -/
theorem extractLsb'_append {m n : Nat} (a : BitVec m) (b : BitVec n) :
    (a ++ b).extractLsb' 0 n = b ∧ (a ++ b).extractLsb' n m = a := by
  constructor
  · ext i hi
    simp [BitVec.getLsbD_append, hi]
  · ext i hi
    simp [BitVec.getLsbD_append, hi, BitVec.getLsbD_eq_getElem]

/-- Masking a word to what the class reads is placing what the class reads of it. -/
theorem OpClass.and_readMask (c : OpClass) (cw : ControlWord) : cw &&& c.readMask = c.place (c.gather cw) := by
  cases c with
  | alu =>
    obtain ⟨hlow, hhigh⟩ := extractLsb'_append (cw.extractLsb' 7 4) (cw.extractLsb' 2 2)
    have hmask : OpClass.alu.readMask = placeField 2 (BitVec.allOnes 2) ||| placeField 7 (BitVec.allOnes 4) := by decide
    have hplace : OpClass.alu.place (OpClass.alu.gather cw)
        = placeField 2 (cw.extractLsb' 2 2) ||| placeField 7 (cw.extractLsb' 7 4) :=
      congrArg₂ (fun a b => placeField 2 a ||| placeField 7 b) hlow hhigh
    rw [hmask, hplace, BitVec.and_or_distrib_left, and_placeField_allOnes, and_placeField_allOnes]
  | _ => exact and_placeField_allOnes ..

/-! ### Where the accessors of R129 stand in the control word -/

@[simp] theorem zsel_unpack (cw : ControlWord) : (Control.unpack cw).zsel = cw.extractLsb' 4 3 :=
  BitVec.extractLsb'_extractLsb'_of_le (by decide)

@[simp] theorem mirrored_unpack (cw : ControlWord) : (Control.unpack cw).mirrored = cw.getLsbD 3 := by
  simp [Control.mirrored, Control.unpack]

@[simp] theorem aCap1_unpack (cw : ControlWord) : (Control.unpack cw).aCap1 = cw.extractLsb' 11 1 := by
  ext i hi
  simp [Control.aCap1, Control.unpack, show i < 5 by omega]

@[simp] theorem aZero_unpack (cw : ControlWord) : (Control.unpack cw).aZero = cw.getLsbD 12 := by
  simp [Control.aZero, Control.unpack]

@[simp] theorem dEn_unpack (cw : ControlWord) : (Control.unpack cw).dEn = cw.getLsbD 13 := by
  simp [Control.dEn, Control.unpack]

@[simp] theorem sub_unpack (cw : ControlWord) : (Control.unpack cw).sub = cw.getLsbD 14 := by
  simp [Control.sub, Control.unpack]

@[simp] theorem bCap1_unpack (cw : ControlWord) : (Control.unpack cw).bCap1 = cw.getLsbD 15 := by
  simp [Control.bCap1, Control.unpack]

@[simp] theorem carryinsel_unpack (cw : ControlWord) : (Control.unpack cw).carryinsel = cw.extractLsb' 16 3 := rfl

@[simp] theorem carryin_unpack (cw : ControlWord) : (Control.unpack cw).carryin = cw.extractLsb' 19 1 := rfl

@[simp] theorem carrycascin_unpack (cw : ControlWord) : (Control.unpack cw).carrycascin = cw.extractLsb' 20 1 := rfl

/-! ### The decoder of a class reads the bits of its mask only -/

/-- A field inside the mask survives the masking. -/
theorem extractLsb'_and_readMask {c : OpClass} {o l : Nat} (h : c.readMask.extractLsb' o l = BitVec.allOnes l)
    (cw : ControlWord) : (cw &&& c.readMask).extractLsb' o l = cw.extractLsb' o l := by
  rw [BitVec.extractLsb'_and, h, BitVec.and_allOnes]

/-- A bit inside the mask survives the masking. -/
theorem getLsbD_and_readMask {c : OpClass} {o : Nat} (h : c.readMask.getLsbD o = true) (cw : ControlWord) :
    (cw &&& c.readMask).getLsbD o = cw.getLsbD o := by
  rw [BitVec.getLsbD_and, h, Bool.and_true]

theorem decodeClass_and_readMask (c : OpClass) (cw : ControlWord) :
    decodeClass c (cw &&& c.readMask) = decodeClass c cw := by
  have field {o l : Nat} := extractLsb'_and_readMask (c := c) (o := o) (l := l)
  have bit {o : Nat} := getLsbD_and_readMask (c := c) (o := o)
  cases c with
  | asel => simp (disch := decide) only [decodeClass, decodeAsel, aCap1_unpack, aZero_unpack, field, bit]
  | bsel => simp (disch := decide) only [decodeClass, decodeBsel, bCap1_unpack, bit]
  | dgate => simp (disch := decide) only [decodeClass, decodeDgate, dEn_unpack, bit]
  | preadd => simp (disch := decide) only [decodeClass, decodePreadd, sub_unpack, bit]
  | mult => rfl
  | xmux => simp (disch := decide) only [decodeClass, decodeXmux, xsel_unpack, ysel_unpack, field]
  | ymux => simp (disch := decide) only [decodeClass, decodeYmux, xsel_unpack, ysel_unpack, field]
  | zmux => simp (disch := decide) only [decodeClass, decodeZmux, xsel_unpack, ysel_unpack, zsel_unpack, field]
  | cin =>
    simp (disch := decide) only [decodeClass, decodeCin, carryinsel_unpack, carryin_unpack, carrycascin_unpack, field]
  | alu =>
    simp (disch := decide) only [decodeClass, decodeAlu, arith_unpack, mirrored_unpack, alumode_unpack, field, bit]

/-- What a class decodes is what it decodes from the bits that it reads. -/
theorem decodeClass_place_gather (c : OpClass) (cw : ControlWord) :
    decodeClass c (c.place (c.gather cw)) = decodeClass c cw := by
  rw [← c.and_readMask, decodeClass_and_readMask]

/-- A mask within what the class reads does not see the other bits. -/
theorem place_gather_and {c : OpClass} {m : ControlWord} (hm : m &&& c.readMask = m) (cw : ControlWord) :
    c.place (c.gather cw) &&& m = cw &&& m := by
  rw [← c.and_readMask, BitVec.and_assoc, BitVec.and_comm c.readMask, hm]

/-! ### Encoding and decoding -/

/-- What a class decodes is one of its well-formed instructions (R116, R117). -/
theorem decodeClass_place_wf (c : OpClass) :
    ∀ b, (decodeClass c (c.place b)).opClass = some c ∧ (decodeClass c (c.place b)).wellFormed = true := by
  cases c <;> decide

/-- A word carries the fixed bits of the instruction that it decodes to. -/
theorem place_and_codeMask (c : OpClass) :
    ∀ b, c.place b &&& (decodeClass c (c.place b)).codeMask = (decodeClass c (c.place b)).codeBits := by
  cases c <;> decide

/-- A word that carries the fixed bits of an encoding decodes as that encoding does. -/
theorem decodeClass_place_congr (c : OpClass) :
    ∀ b, (decodeClass c (c.place b)).codeBits = c.place b →
      ∀ b', c.place b' &&& (decodeClass c (c.place b)).codeMask = c.place b →
        decodeClass c (c.place b') = decodeClass c (c.place b) := by
  cases c <;> decide

/-- The encoder and the decoder agree, row by row of the opcode table. -/
theorem decode_encode {i : Instr} (h : i.wellFormed = true) : decode (encode i) = i := by
  cases i with
  | aselZero cap1 => revert cap1; decide
  | xmuxMIll ysel => revert ysel; decide
  | ymuxMIll xsel => revert xsel; decide
  | zmuxPcond xsel ysel => revert xsel ysel; decide
  | cinCarryin carryin => revert carryin; decide
  | cinCarrycascin carrycascin => revert carrycascin; decide
  | arithRsvd alumode => revert alumode; decide
  | logicRsvd code =>
    obtain ⟨ysel, alumode⟩ := code
    revert ysel alumode
    decide
  | _ => rfl

/-- The fixed bits of a micro-operation are bits that its class reads. -/
theorem codeBits_and_readMask {i : Instr} {c : OpClass} (hc : i.opClass = some c) :
    i.codeMask &&& c.readMask = i.codeMask ∧ i.codeBits &&& c.readMask = i.codeBits := by
  cases i with
  | aselZero cap1 => cases hc; revert cap1; decide
  | xmuxMIll ysel => cases hc; revert ysel; decide
  | ymuxMIll xsel => cases hc; revert xsel; decide
  | zmuxPcond xsel ysel => cases hc; revert xsel ysel; decide
  | cinCarryin carryin => cases hc; revert carryin; decide
  | cinCarrycascin carrycascin => cases hc; revert carrycascin; decide
  | arithRsvd alumode => cases hc; revert alumode; decide
  | logicRsvd code =>
    obtain ⟨ysel, alumode⟩ := code
    cases hc
    revert ysel alumode
    decide
  | _ => cases hc <;> decide

/-- A control word carries the fixed bits of what it decodes to. -/
theorem and_codeMask_decodeClass (c : OpClass) (cw : ControlWord) :
    cw &&& (decodeClass c cw).codeMask = (decodeClass c cw).codeBits := by
  have hplace := place_and_codeMask c (c.gather cw)
  obtain ⟨hclass, -⟩ := decodeClass_place_wf c (c.gather cw)
  rw [decodeClass_place_gather] at hplace hclass
  obtain ⟨hmask, -⟩ := codeBits_and_readMask hclass
  rwa [place_gather_and hmask] at hplace

/-- A control word that carries the fixed bits of a micro-operation decodes to it at its class. -/
theorem decodeClass_of_and_codeMask {i : Instr} (hwf : i.wellFormed = true) {c : OpClass} (hc : i.opClass = some c)
    {cw : ControlWord} (h : cw &&& i.codeMask = i.codeBits) : decodeClass c cw = i := by
  obtain ⟨hmask, hbits⟩ := codeBits_and_readMask hc
  have hplace : c.place (c.gather i.codeBits) = i.codeBits := by rw [← c.and_readMask, hbits]
  have hdecode : decodeClass c i.codeBits = i := by
    have := decode_encode hwf
    rwa [encode, hc] at this
  have hcongr := decodeClass_place_congr c (c.gather i.codeBits)
  rw [hplace, hdecode] at hcongr
  rw [← decodeClass_place_gather]
  exact hcongr rfl _ (by rw [place_gather_and hmask, h])

/-- The eight command codes are the encodings of the eight commands (R123, R128). -/
theorem decodeCommand_eq_iff {i : Instr} (h : i.opClass = none) (code : CommandCode) :
    decodeCommand code = i ↔ code.setWidth 21 = i.codeBits := by
  cases i with
  | init | reset | free | step | gemm | cmdRsvd5 | cmdRsvd6 | cmdRsvd7 => revert code; decide
  | _ => cases h

/-- Settles O1: `decode_encode`, and the two directions `and_codeMask_decodeClass` and `decodeClass_of_and_codeMask`. -/
theorem decodeOfEncodeIsTheInstruction : Obligations.DecodeOfEncodeIsTheInstruction := by
  unfold Obligations.DecodeOfEncodeIsTheInstruction
  refine fun i hwf => ⟨decode_encode hwf, fun c cw hc => ⟨?carries, decodeClass_of_and_codeMask hwf hc⟩,
    fun code hc => decodeCommand_eq_iff hc code⟩
  case carries =>
    rintro rfl
    exact and_codeMask_decodeClass c cw

/-! ### The opcode table (R116, R117, R123) -/

/-- The rows of one class that select a word. -/
def rowsSelecting (c : Option OpClass) (w : ControlWord) : List Row :=
  opcodeRows.filter fun r => decide (r.cls = c ∧ w &&& r.mask = r.pattern)

/-- No row of a class looks at a bit that the class does not read. -/
theorem row_mask_and_readMask (c : OpClass) : ∀ r ∈ opcodeRows, r.cls = some c → r.mask &&& c.readMask = r.mask := by
  cases c <;> decide

/-- The rows see what the class reads of a word and nothing else. -/
theorem rowsSelecting_place_gather (c : OpClass) (cw : ControlWord) :
    rowsSelecting (some c) (c.place (c.gather cw)) = rowsSelecting (some c) cw := by
  refine List.filter_congr fun r hr => ?_
  by_cases hc : r.cls = some c
  · rw [place_gather_and (row_mask_and_readMask c r hr hc)]
  · simp [hc]

/-- Every word is selected by one row of the class, that of the decoded instruction. -/
theorem rowsSelecting_place (c : OpClass) :
    ∀ b, (rowsSelecting (some c) (c.place b)).map Row.mnemonic = [(decodeClass c (c.place b)).mnemonic] := by
  cases c <;> decide

theorem rowsSelecting_command :
    ∀ code : CommandCode, (rowsSelecting none (code.setWidth 21)).map Row.mnemonic = [(decodeCommand code).mnemonic]
      ∧ (decodeCommand code).opClass = none := by decide

/-- Settles O2: the class's read bits decide the rows (`rowsSelecting_place_gather`, `rowsSelecting_place`) and the
instruction (`decodeClass_place_gather`, `decodeClass_place_wf`). -/
theorem everyWordSelectsOneRowOfEachClass : Obligations.EveryWordSelectsOneRowOfEachClass := by
  unfold Obligations.EveryWordSelectsOneRowOfEachClass
  refine ⟨fun cw c => ?control, fun code => ?command⟩
  case control =>
    have hrows := rowsSelecting_place c (c.gather cw)
    have hwf := decodeClass_place_wf c (c.gather cw)
    rw [rowsSelecting_place_gather, decodeClass_place_gather] at hrows
    rw [decodeClass_place_gather] at hwf
    obtain ⟨r, hr, hmnemonic⟩ := List.map_eq_singleton_iff.1 hrows
    exact ⟨r, hr, hmnemonic, hwf⟩
  case command =>
    obtain ⟨hrows, hnone⟩ := rowsSelecting_command code
    obtain ⟨r, hr, hmnemonic⟩ := List.map_eq_singleton_iff.1 hrows
    exact ⟨r, hr, hmnemonic, hnone⟩

/-- Settles O4: each word by evaluating the decoder on it. -/
theorem writtenOutWordsDecode : Obligations.WrittenOutWordsDecode := by
  unfold Obligations.WrittenOutWordsDecode
  decide

/-- Settles O39: the last three rows of the command table, and their meanings. -/
theorem reservedCommandsAreRefused : Obligations.ReservedCommandsAreRefused := by
  unfold Obligations.ReservedCommandsAreRefused
  exact ⟨rfl, rfl, rfl, fun _ => ⟨rfl, rfl, rfl⟩⟩

end Sys2Proof
end

section
/-! SUPPORT. The first stage of the slice and the carry select (spec/40_operand_select.md R150 to R161; spec/42_carry_select.md
R200 to R207): a word's two's-complement reading against `sext`, a sign bit against the sign, and the meanings and decoders of
the micro-operations. -/

namespace Sys2Proof.Machine

/-! ### Words and `sext` (R16, R150, R160) -/

/-- `sext` reads the low bits only. -/
theorem sext_congr {n : Nat} {v w : Int} (h : zext n v = zext n w) : sext n v = sext n w := by
  show (if 2 * zext n v < 2 ^ n then zext n v else zext n v - 2 ^ n)
    = if 2 * zext n w < 2 ^ n then zext n w else zext n w - 2 ^ n
  rw [h]

/-- Narrowing in two steps is narrowing to the smaller width. -/
theorem zext_zext_of_le {k n : Nat} (h : k ≤ n) (v : Int) : zext k (zext n v) = zext k v :=
  Int.emod_emod_of_dvd v (pow_dvd_pow 2 h)

theorem toNat_ofInt_eq_zext (n : Nat) (v : Int) : ((BitVec.ofInt n v).toNat : Int) = zext n v := by
  rw [BitVec.toNat_ofInt]
  exact_mod_cast Int.toNat_of_nonneg (zext_nonneg n v)

/-- A port at width `n` reads as `sext` of the supplied integer. -/
theorem toInt_ofInt_eq_sext (n : Nat) (v : Int) : (BitVec.ofInt n v).toInt = sext n v := by
  rw [toInt_eq_sext_toNat, toNat_ofInt_eq_zext]
  exact sext_congr (zext_zext_of_le le_rfl v)

/-- Bits above the width are discarded. -/
theorem ofInt_add_mul_two_pow (n : Nat) (v q : Int) : BitVec.ofInt n (v + q * 2 ^ n) = BitVec.ofInt n v := by
  refine BitVec.eq_of_toInt_eq ?_
  rw [toInt_ofInt_eq_sext, toInt_ofInt_eq_sext]
  exact sext_congr (Int.add_mul_emod_self_right v q _)

/-- The low `k` bits of a word, read as two's complement. -/
theorem toInt_extractLsb'_zero {n k : Nat} (h : k ≤ n) (b : BitVec n) : (b.extractLsb' 0 k).toInt = sext k b.toInt := by
  rw [toInt_eq_sext_toNat, BitVec.extractLsb'_toNat, Nat.shiftRight_zero, Int.natCast_mod]
  refine sext_congr ?_
  calc zext k ((b.toNat : Int) % ((2 ^ k : Nat) : Int))
      = zext k (zext k b.toNat) := by push_cast; rfl
    _ = zext k (zext n b.toInt) := by rw [zext_toInt, zext_zext_of_le le_rfl]
    _ = zext k b.toInt := zext_zext_of_le h _

/-- Settles O6: `toInt_ofInt_eq_sext` at each port, and `ofInt_add_mul_two_pow`. -/
theorem requestOperandsAreConditioned : Obligations.RequestOperandsAreConditioned := by
  unfold Obligations.RequestOperandsAreConditioned
  refine fun v => ⟨toInt_ofInt_eq_sext .., toInt_ofInt_eq_sext .., toInt_ofInt_eq_sext .., toInt_ofInt_eq_sext ..,
    toInt_ofInt_eq_sext .., toInt_ofInt_eq_sext .., toInt_ofInt_eq_sext .., toInt_ofInt_eq_sext .., rfl, fun q => ?_⟩
  simp only [condition, ofInt_add_mul_two_pow]

/-! ### The selects of A and B, the gate of D (R151 to R157) -/

/-- A field of one bit is that bit. -/
theorem extractLsb'_one {n : Nat} (b : BitVec n) (o : Nat) : b.extractLsb' o 1 = BitVec.ofBool (b.getLsbD o) := by
  ext i hi
  obtain rfl : i = 0 := by omega
  simp

theorem decodeClass_asel (cw : ControlWord) :
    decodeClass .asel cw
      = if cw.getLsbD 12 then .aselZero (cw.extractLsb' 11 1) else if cw.getLsbD 11 then .aselC1 else .aselC2 := by
  simp only [decodeClass, decodeAsel, aZero_unpack, aCap1_unpack, extractLsb'_one]
  cases cw.getLsbD 11 <;> rfl

theorem decodeClass_bsel (cw : ControlWord) : decodeClass .bsel cw = if cw.getLsbD 15 then .bselC1 else .bselC2 := by
  simp only [decodeClass, decodeBsel, bCap1_unpack]

theorem decodeClass_dgate (cw : ControlWord) : decodeClass .dgate cw = if cw.getLsbD 13 then .dgateOn else .dgateOff := by
  simp only [decodeClass, decodeDgate, dEn_unpack]

/-- Settles O8: each select writes its node by definition; the decoders by `decodeClass_asel` and `decodeClass_bsel`. -/
theorem selectsOfAAndB : Obligations.SelectsOfAAndB := by
  unfold Obligations.SelectsOfAAndB
  exact ⟨fun _ => rfl, fun _ => rfl, fun _ _ => rfl, fun _ => rfl, fun _ => rfl,
    fun cw => ⟨decodeClass_asel cw, decodeClass_bsel cw⟩⟩

/-! ### The pre-adder (R158, R159, R160) -/

theorem exec_preaddAdd (s : State) :
    exec .preaddAdd s
      = .next (s.withNodes { s.nodes with ad := BitVec.ofInt 25 (s.nodes.deff.toInt + (a25 s).toInt) }) := rfl

theorem exec_preaddSub (s : State) :
    exec .preaddSub s
      = .next (s.withNodes { s.nodes with ad := BitVec.ofInt 25 (s.nodes.deff.toInt - (a25 s).toInt) }) := rfl

theorem a25_toInt (s : State) : (a25 s).toInt = sext 25 s.nodes.asel.toInt := toInt_extractLsb'_zero (by decide) _

theorem decodeClass_preadd (cw : ControlWord) :
    decodeClass .preadd cw = if cw.getLsbD 14 then .preaddSub else .preaddAdd := by
  simp only [decodeClass, decodePreadd, sub_unpack]

/-- Settles O9: with the gate off the sum is that of 0 and the view of A. -/
theorem theDGate : Obligations.TheDGate := by
  unfold Obligations.TheDGate
  refine ⟨fun _ => rfl, fun _ => rfl, decodeClass_dgate, fun s hd => ?_⟩
  have hzero : s.nodes.deff.toInt = 0 := congrArg BitVec.toInt hd
  refine ⟨?add, ?sub⟩
  case add =>
    rw [exec_preaddAdd, hzero, Int.zero_add, BitVec.ofInt_toInt]
    rfl
  case sub =>
    rw [exec_preaddSub, hzero, Int.zero_sub, BitVec.ofInt_neg, BitVec.ofInt_toInt]
    rfl

/-- Settles O10: the 25-bit sum reads as `sext` of the integer sum (`toInt_ofInt_eq_sext`, `a25_toInt`). -/
theorem thePreAdderWraps : Obligations.ThePreAdderWraps := by
  unfold Obligations.ThePreAdderWraps
  refine ⟨fun s => ⟨_, ?add, exec_preaddAdd s⟩, fun s => ⟨_, ?sub, exec_preaddSub s⟩, decodeClass_preadd⟩
  case add => rw [toInt_ofInt_eq_sext, a25_toInt]
  case sub => rw [toInt_ofInt_eq_sext, a25_toInt]

/-! ### The multiplier (R161) -/

theorem exec_mult (s : State) :
    exec .mult s = .next (s.withNodes { s.nodes with m := s.nodes.ad.toInt * s.nodes.bsel.toInt }) := rfl

/-- The range of a product of a 25-bit and an 18-bit operand. -/
theorem product_range {a b : Int} (ha : -2 ^ 24 ≤ a ∧ a < 2 ^ 24) (hb : -2 ^ 17 ≤ b ∧ b < 2 ^ 17) :
    -((2 ^ 24 - 1) * 2 ^ 17) ≤ a * b ∧ a * b ≤ 2 ^ 41 := by
  obtain ⟨ha1, ha2⟩ := ha
  obtain ⟨hb1, hb2⟩ := hb
  constructor <;> rcases le_total 0 a with h | h <;> rcases le_total 0 b with h' | h' <;> nlinarith

/-- A state with the two factors on their wires. -/
def withFactors (ad : BitVec 25) (bsel : BitVec 18) : State :=
  State.reset.withNodes { State.reset.nodes with ad := ad, bsel := bsel }

/-- Settles O11: the product by definition, its range by the widths (`product_range`), the two bounds at −2^24 · −2^17 and at
(2^24 − 1) · −2^17. -/
theorem theMultiplierIsExact : Obligations.TheMultiplierIsExact := by
  unfold Obligations.TheMultiplierIsExact
  refine ⟨exec_mult, fun _ => rfl, fun s t h => ?range, ⟨withFactors 0x1000000 0x20000, _, rfl, by decide⟩,
    ⟨withFactors 0xFFFFFF 0x20000, _, rfl, by decide⟩⟩
  case range =>
    rw [exec_mult] at h
    cases h
    exact product_range ⟨BitVec.le_toInt _, BitVec.toInt_lt⟩ ⟨BitVec.le_toInt _, BitVec.toInt_lt⟩

/-! ### The carry select (R200 to R207) -/

/-- The top bit of a word is the sign of its two's-complement reading. -/
theorem topBit_eq {k : Nat} (b : BitVec (k + 1)) : b.extractLsb' k 1 = if b.toInt < 0 then 1 else 0 := by
  have hsign : b.getLsbD k = decide (b.toInt < 0) := by
    rw [← BitVec.msb_eq_toInt, BitVec.msb_eq_getLsbD_last]
    rfl
  rw [extractLsb'_one, hsign]
  by_cases h : b.toInt < 0 <;> simp [h]

theorem pcin47_eq (s : State) : pcin47 s = if s.ports.pcin.toInt < 0 then 1 else 0 := topBit_eq _

theorem pfb47_eq (s : State) : pfb47 s = if s.ports.pfb.toInt < 0 then 1 else 0 := topBit_eq _

theorem bsel17_eq (s : State) : bsel17 s = if s.nodes.bsel.toInt < 0 then 1 else 0 := topBit_eq _

/-- Bit 24 of the selected A is the sign of its 25-bit view. -/
theorem asel24_eq (s : State) : asel24 s = if sext 25 s.nodes.asel.toInt < 0 then 1 else 0 := by
  have hview : asel24 s = (a25 s).extractLsb' 24 1 := by
    rw [asel24, a25, BitVec.extractLsb'_extractLsb'_of_le (by decide)]
  rw [hview, topBit_eq, a25_toInt]

theorem exec_cinNpcin47 (s : State) : exec .cinNpcin47 s = writeCin (~~~(pcin47 s)) s := rfl

theorem exec_cinPcin47 (s : State) : exec .cinPcin47 s = writeCin (pcin47 s) s := rfl

theorem exec_cinA24xb17 (s : State) : exec .cinA24xb17 s = writeCin (asel24 s ^^^ bsel17 s) s := rfl

theorem exec_cinNp47 (s : State) : exec .cinNp47 s = writeCin (~~~(pfb47 s)) s := rfl

theorem exec_cinP47 (s : State) : exec .cinP47 s = writeCin (pfb47 s) s := rfl

/-- The inverse of a sign bit. -/
theorem not_signBit (q : Prop) [Decidable q] : ~~~(if q then 1 else 0 : BitVec 1) = if q then 0 else 1 := by
  split <;> rfl

/-- Two sign bits under XOR. -/
theorem signBit_xor (q r : Prop) [Decidable q] [Decidable r] :
    (if q then 1 else 0 : BitVec 1) ^^^ (if r then 1 else 0) = if (q ↔ r) then 0 else 1 := by
  by_cases hq : q <;> by_cases hr : r <;> simp [hq, hr]

/-- Settles O17: the bits as signs (`pcin47_eq`, `asel24_eq`, `bsel17_eq`, `pfb47_eq`), and the table of the eight codes. -/
theorem theCarrySources : Obligations.TheCarrySources := by
  unfold Obligations.TheCarrySources
  refine ⟨fun _ _ => rfl, fun _ _ => rfl, fun s => ?npcin, fun s => ?signs, fun s => ?p, fun cw => rfl⟩
  case npcin =>
    rw [exec_cinNpcin47, pcin47_eq, not_signBit]
    rfl
  case signs =>
    rw [exec_cinA24xb17, asel24_eq, bsel17_eq, signBit_xor]
    rfl
  case p =>
    rw [exec_cinP47, pfb47_eq]
    rfl

/-- Settles O18: the bits as signs, as in O17. -/
theorem theInferredCarrySources : Obligations.TheInferredCarrySources := by
  unfold Obligations.TheInferredCarrySources
  refine ⟨fun s => ?pcin, fun _ => rfl, fun s => ?np⟩
  case pcin =>
    rw [exec_cinPcin47, pcin47_eq]
    rfl
  case np =>
    rw [exec_cinNp47, pfb47_eq, not_signBit]
    rfl

end Sys2Proof.Machine
end

section
/-! SUPPORT. The Y and Z muxes and the logic mode of the ALU (spec/41_opmode_muxes.md R175 to R187; spec/43_alu.md R226 to
R244): decoders, the condition of the feedback, and the cell of `LOGIC_TABLE` behind each logic micro-operation. -/

namespace Sys2Proof.Machine

/-! ### The Y mux (R175 to R179) -/

theorem decodeClass_ymux (cw : ControlWord) : decodeClass .ymux cw = decodeYmux (Control.unpack cw) := rfl

theorem decodeYmux_zero {k : Control} (h : k.ysel.toNat = 0) : decodeYmux k = .ymuxZero := by
  simp only [decodeYmux, h]

theorem decodeYmux_m {k : Control} (hy : k.ysel.toNat = 1) (hx : k.xsel.toNat = 1) : decodeYmux k = .ymuxM := by
  simp only [decodeYmux, hy]
  exact if_pos (BitVec.eq_of_toNat_eq hx)

/-- The multiplier selected on Y without X (R177). -/
theorem decodeYmux_mIll {k : Control} (hy : k.ysel.toNat = 1) (hx : k.xsel.toNat ≠ 1) :
    decodeYmux k = .ymuxMIll k.xsel := by
  simp only [decodeYmux, hy]
  exact if_neg fun h => hx (congrArg BitVec.toNat h)

theorem decodeYmux_ones {k : Control} (h : k.ysel.toNat = 2) : decodeYmux k = .ymuxOnes := by
  simp only [decodeYmux, h]

/-- Two bits have one code left (R179). -/
theorem decodeYmux_c {k : Control} (h0 : k.ysel.toNat ≠ 0) (h1 : k.ysel.toNat ≠ 1) (h2 : k.ysel.toNat ≠ 2) :
    decodeYmux k = .ymuxC := by
  have hlt : k.ysel.toNat < 4 := k.ysel.isLt
  have h3 : k.ysel.toNat = 3 := by omega
  simp only [decodeYmux, h3]

/-- Settles O13: the selections write their node by definition; the decoder row by row. -/
theorem theYMux : Obligations.TheYMux := by
  unfold Obligations.TheYMux
  refine ⟨fun _ => rfl, fun _ _ => rfl, fun _ => rfl, fun _ => rfl, fun cw => ?_⟩
  rw [decodeClass_ymux, ← xsel_unpack, ← ysel_unpack]
  split
  next hy => exact decodeYmux_zero hy
  next hy hx => exact decodeYmux_m hy hx
  next hy hx => exact decodeYmux_mIll hy hx
  next hy => exact decodeYmux_ones hy
  next h0 h1 h2 _ => exact decodeYmux_c h0 h1 h2

theorem exec_ymuxM_dup {s : State} (h : s.params.multSplit = .dup) : exec .ymuxM s = writeY s.nodes.m s := by
  show execYmuxM s = _
  rw [execYmuxM, h]

theorem exec_ymuxM_sum {s : State} (h : s.params.multSplit = .sum) : exec .ymuxM s = writeY 0 s := by
  show execYmuxM s = _
  rw [execYmuxM, h]

/-- Settles O14: the two values of `MULT_SPLIT`. -/
theorem theMultiplierOnY : Obligations.TheMultiplierOnY := by
  unfold Obligations.TheMultiplierOnY
  exact fun s => ⟨exec_ymuxM_dup, exec_ymuxM_sum⟩

/-! ### The Z mux (R180 to R187) -/

/-- Settles O15: the selections write their node by definition; the decoder reads CW[6:4] (`zsel_unpack`). -/
theorem theZMux : Obligations.TheZMux := by
  unfold Obligations.TheZMux
  refine ⟨fun _ => rfl, fun _ => rfl, fun _ => rfl, fun _ => rfl, fun _ => rfl, fun _ => rfl, fun _ => rfl, fun cw => ?_⟩
  rw [← zsel_unpack, ← xsel_unpack, ← ysel_unpack]
  rfl

/-- The feedback under its condition (R184). -/
theorem exec_zmuxPcond (s : State) (xsel ysel : BitVec 2) :
    exec (.zmuxPcond xsel ysel) s
      = writeZ (if (xsel, ysel) ∈ s.params.z4Cond then s.ports.pfb.toInt else 0) s := by
  show writeZ (if s.params.z4Cond.contains (xsel, ysel) = true then s.ports.pfb.toInt else 0) s = _
  simp only [List.contains_iff_mem]

/-- Settles O16: `exec_zmuxPcond`, and the one pair of the reference value. -/
theorem theConditionalFeedbackOnZ : Obligations.TheConditionalFeedbackOnZ := by
  unfold Obligations.TheConditionalFeedbackOnZ
  refine ⟨exec_zmuxPcond, fun xsel ysel => ?_⟩
  show (xsel, ysel) ∈ [(0, 2)] ↔ _
  rw [List.mem_singleton, Prod.mk.injEq]

/-! ### The logic mode (R226 to R244) -/

/-- A micro-operation that writes a cell of the table answers that cell, bit by bit. -/
theorem answersCell_of_writeR {i : Instr} {code : LogicCode} {s : State}
    (h : exec i s = writeR (tableLogic s code.ysel code.alumode) s) : AnswersCell i code s := by
  refine ⟨tableLogic s code.ysel code.alumode, fun n => ?_, h⟩
  cases hcell : lookupLogic s.params.logicTable code with
  | some f => rw [tableLogic_some hcell, intLogic_testBit]
  | none =>
    rw [tableLogic_none hcell]
    exact Nat.zero_testBit n

/-- Under a table that gives the cell the function `f`, the answer is `f` bit by bit. -/
theorem AnswersCell.bitwise {i : Instr} {code : LogicCode} {s : State} {f : LogicFn} {g : Bool → Bool → Bool}
    (h : AnswersCell i code s) (hcell : lookupLogic s.params.logicTable code = some f)
    (hg : ∀ x z, f.at x z = g x z) : AnswersBitwise i g s := by
  obtain ⟨r, hbits, hexec⟩ := h
  refine ⟨r, fun n => ?_, hexec⟩
  rw [hbits n, hcell, ← hg]

/-- The logic micro-operations of the column YSEL = 0, each with its cell. -/
theorem answersCell_firstColumn (s : State) :
    AnswersCell .xorY0A4 ⟨0, 4⟩ s ∧ AnswersCell .xnorY0A5 ⟨0, 5⟩ s ∧ AnswersCell .xnorY0A6 ⟨0, 6⟩ s
    ∧ AnswersCell .xorY0A7 ⟨0, 7⟩ s ∧ AnswersCell .andY0A12 ⟨0, 12⟩ s ∧ AnswersCell .andnY0A13 ⟨0, 13⟩ s
    ∧ AnswersCell .nandY0A14 ⟨0, 14⟩ s ∧ AnswersCell .ornxY0A15 ⟨0, 15⟩ s :=
  ⟨answersCell_of_writeR rfl, answersCell_of_writeR rfl, answersCell_of_writeR rfl, answersCell_of_writeR rfl,
    answersCell_of_writeR rfl, answersCell_of_writeR rfl, answersCell_of_writeR rfl, answersCell_of_writeR rfl⟩

/-- The logic micro-operations of the column YSEL = 2, each with its cell. -/
theorem answersCell_mirroredColumn (s : State) :
    AnswersCell .xnorY2A4 ⟨2, 4⟩ s ∧ AnswersCell .xorY2A5 ⟨2, 5⟩ s ∧ AnswersCell .xorY2A6 ⟨2, 6⟩ s
    ∧ AnswersCell .xnorY2A7 ⟨2, 7⟩ s ∧ AnswersCell .orY2A12 ⟨2, 12⟩ s ∧ AnswersCell .ornY2A13 ⟨2, 13⟩ s
    ∧ AnswersCell .norY2A14 ⟨2, 14⟩ s ∧ AnswersCell .andnxY2A15 ⟨2, 15⟩ s :=
  ⟨answersCell_of_writeR rfl, answersCell_of_writeR rfl, answersCell_of_writeR rfl, answersCell_of_writeR rfl,
    answersCell_of_writeR rfl, answersCell_of_writeR rfl, answersCell_of_writeR rfl, answersCell_of_writeR rfl⟩

/-- A cell of the reference table, in a state that carries that table. -/
theorem lookupLogic_of_reset {s : State} (hs : s.params.logicTable = State.reset.params.logicTable) {code : LogicCode}
    {f : LogicFn} (h : lookupLogic referenceLogicTable code = some f) :
    lookupLogic s.params.logicTable code = some f := by
  rw [hs]
  exact h

theorem decodeClass_alu_of_logic {cw : ControlWord} (h : cw.getLsbD 2 = false) :
    decodeClass .alu cw
      = if cw.getLsbD 3 then decodeLogicY2 (cw.extractLsb' 7 4) else decodeLogicY0 (cw.extractLsb' 7 4) := by
  simp only [decodeClass, decodeAlu, arith_unpack, mirrored_unpack, alumode_unpack, h, Bool.false_eq_true, if_false]

/-- Settles O20: each micro-operation writes its cell; the cells of the reference table; the decoder's own table. -/
theorem theLogicFunctionsOfTheFirstColumn : Obligations.TheLogicFunctionsOfTheFirstColumn := by
  unfold Obligations.TheLogicFunctionsOfTheFirstColumn
  refine ⟨answersCell_firstColumn, fun s hs => ?reference, fun cw h2 h3 => ?decoder⟩
  case reference =>
    obtain ⟨h4, h5, h6, h7, h12, h13, h14, h15⟩ := answersCell_firstColumn s
    exact ⟨h4.bitwise (f := fnXor) (lookupLogic_of_reset hs (by decide)) (by decide),
      h5.bitwise (f := fnXnor) (lookupLogic_of_reset hs (by decide)) (by decide),
      h6.bitwise (f := fnXnor) (lookupLogic_of_reset hs (by decide)) (by decide),
      h7.bitwise (f := fnXor) (lookupLogic_of_reset hs (by decide)) (by decide),
      h12.bitwise (f := fnAnd) (lookupLogic_of_reset hs (by decide)) (by decide),
      h13.bitwise (f := fnAndNotZ) (lookupLogic_of_reset hs (by decide)) (by decide),
      h14.bitwise (f := fnNand) (lookupLogic_of_reset hs (by decide)) (by decide),
      h15.bitwise (f := fnNotXOr) (lookupLogic_of_reset hs (by decide)) (by decide)⟩
  case decoder =>
    rw [decodeClass_alu_of_logic h2, h3]
    rfl

/-- Settles O21: as O20 for the mirrored column. -/
theorem theLogicFunctionsOfTheMirroredColumn : Obligations.TheLogicFunctionsOfTheMirroredColumn := by
  unfold Obligations.TheLogicFunctionsOfTheMirroredColumn
  refine ⟨answersCell_mirroredColumn, fun s hs => ?reference, fun cw h2 h3 => ?decoder⟩
  case reference =>
    obtain ⟨h4, h5, h6, h7, h12, h13, h14, h15⟩ := answersCell_mirroredColumn s
    exact ⟨h4.bitwise (f := fnXnor) (lookupLogic_of_reset hs (by decide)) (by decide),
      h5.bitwise (f := fnXor) (lookupLogic_of_reset hs (by decide)) (by decide),
      h6.bitwise (f := fnXor) (lookupLogic_of_reset hs (by decide)) (by decide),
      h7.bitwise (f := fnXnor) (lookupLogic_of_reset hs (by decide)) (by decide),
      h12.bitwise (f := fnOr) (lookupLogic_of_reset hs (by decide)) (by decide),
      h13.bitwise (f := fnOrNotZ) (lookupLogic_of_reset hs (by decide)) (by decide),
      h14.bitwise (f := fnNor) (lookupLogic_of_reset hs (by decide)) (by decide),
      h15.bitwise (f := fnNotXAnd) (lookupLogic_of_reset hs (by decide)) (by decide)⟩
  case decoder =>
    rw [decodeClass_alu_of_logic h2, h3]
    rfl

end Sys2Proof.Machine
end

section
/-! SUPPORT. One step of the machine (spec/30_encoding.md R117; spec/20_memory.md R94): what an instruction leaves alone, and the
step by what stands to be decoded. -/

namespace Sys2Proof.Machine

/-- No instruction writes the parameters, the caller's side of the machine or the ports. -/
theorem exec_next_frame {i : Instr} {s t : State} (h : exec i s = .next t) :
    t.params = s.params ∧ t.requests = s.requests ∧ t.activity = s.activity ∧ t.ports = s.ports ∧ t.ctl = s.ctl
      ∧ t.args = s.args := by
  cases hc : i.opClass with
  | some c =>
    obtain ⟨n, p, hn⟩ := exec_slice hc s
    obtain rfl : { s with nodes := n, p := p } = t := by simpa using hn.symm.trans h
    exact ⟨rfl, rfl, rfl, rfl, rfl, rfl⟩
  | none =>
    cases i with
    | init =>
      obtain ⟨-, -, ⟨-, rfl⟩ | ⟨-, -, rfl⟩ | ⟨-, -, rfl⟩⟩ := execInit_next h <;>
        exact ⟨rfl, rfl, rfl, rfl, rfl, rfl⟩
    | reset =>
      obtain ⟨_, -, rfl⟩ := execReset_next h
      exact ⟨rfl, rfl, rfl, rfl, rfl, rfl⟩
    | free =>
      obtain rfl := execFree_next h
      exact ⟨rfl, rfl, rfl, rfl, rfl, rfl⟩
    | step =>
      obtain ⟨_, -, ⟨-, rfl⟩ | ⟨-, -, rfl⟩⟩ := execStep_next h <;> exact ⟨rfl, rfl, rfl, rfl, rfl, rfl⟩
    | gemm =>
      obtain ⟨_, _, -, -, -, -, ⟨-, rfl⟩ | ⟨-, rfl⟩⟩ := execGemm_next h <;> exact ⟨rfl, rfl, rfl, rfl, rfl, rfl⟩
    | cmdRsvd5 | cmdRsvd6 | cmdRsvd7 => cases h
    | _ => cases hc

theorem exec_next_activity {i : Instr} {s t : State} (h : exec i s = .next t) : t.activity = s.activity := by
  obtain ⟨-, -, hactivity, -⟩ := exec_next_frame h
  exact hactivity

/-! ### What reaches the ports (R94, R371, R405) -/

theorem present_of_evaluating {s : State} {c : OpClass} (h : s.activity = .evaluating c) : present s = s := by
  unfold present
  rw [h]

theorem present_of_commanded {s : State} {code : CommandCode} (h : s.activity = .commanded code) : present s = s := by
  unfold present
  rw [h]

theorem present_of_idle_nil {s : State} (h : s.activity = .idle) (hr : s.requests = []) : present s = s := by
  unfold present
  rw [h, hr]

theorem present_of_idle_evaluate {s : State} {v : Supplied} {k : Control} {rest : List Request} (h : s.activity = .idle)
    (hr : s.requests = .evaluate v k :: rest) :
    present s = { s with requests := rest, activity := .evaluating .asel, ports := condition v, ctl := k } := by
  unfold present
  rw [h, hr]

theorem present_of_idle_command {s : State} {code : CommandCode} {args : Args} {rest : List Request}
    (h : s.activity = .idle) (hr : s.requests = .command code args :: rest) :
    present s = { s with requests := rest, activity := .commanded code, args := args } := by
  unfold present
  rw [h, hr]

/-- A step looks at the state with the request on the ports only. -/
theorem step_congr {s s' : State} (h : present s = present s') : step s = step s' := by
  unfold step
  rw [h]

/-! ### The step by what stands to be decoded -/

theorem step_of_fetch {s t : State} {e : Encoded} (hs : present s = s) (hf : fetch s = some e)
    (h : exec (decode e) s = .next t) : step s = .next (advance t) := by
  unfold step
  rw [hs, hf]
  dsimp only
  rw [h]

theorem fetch_of_evaluating {s : State} {c : OpClass} (h : s.activity = .evaluating c) :
    fetch s = some (.control c s.ctl.pack) := by
  unfold fetch
  rw [h]

theorem fetch_of_commanded {s : State} {code : CommandCode} (h : s.activity = .commanded code) :
    fetch s = some (.command code) := by
  unfold fetch
  rw [h]

/-- What the machine does after a micro-operation of a class (R117). -/
def Activity.after (c : OpClass) : Activity :=
  match c.succ with
  | some c' => .evaluating c'
  | none => .idle

theorem advance_of_evaluating {t : State} {c : OpClass} (h : t.activity = .evaluating c) :
    advance t = { t with activity := Activity.after c } := by
  unfold advance Activity.after
  rw [h]
  dsimp only
  cases c.succ <;> rfl

theorem advance_of_commanded {t : State} {code : CommandCode} (h : t.activity = .commanded code) :
    advance t = { t with activity := .idle } := by
  unfold advance
  rw [h]

/-- A step of an evaluation is the micro-operation of its class, and then the next class. -/
theorem step_of_evaluating {s t : State} {c : OpClass} (hc : s.activity = .evaluating c)
    (h : exec (decodeClass c s.ctl.pack) s = .next t) : step s = .next { t with activity := Activity.after c } := by
  rw [step_of_fetch (present_of_evaluating hc) (fetch_of_evaluating hc) h,
    advance_of_evaluating ((exec_next_activity h).trans hc)]

/-- A step of a command that completes is the command, and then nothing is in progress. -/
theorem step_of_commanded {s t : State} {code : CommandCode} (hc : s.activity = .commanded code)
    (h : exec (decodeCommand code) s = .next t) : step s = .next { t with activity := .idle } := by
  rw [step_of_fetch (present_of_commanded hc) (fetch_of_commanded hc) h,
    advance_of_commanded ((exec_next_activity h).trans hc)]

/-- A step of a command that is refused is refused. -/
theorem step_of_commanded_refused {s : State} {r : Refusal} {code : CommandCode} (hc : s.activity = .commanded code)
    (h : exec (decodeCommand code) s = .refused r) : step s = .refused r := by
  unfold step
  rw [present_of_commanded hc, fetch_of_commanded hc]
  dsimp only
  rw [show exec (decode (.command code)) s = .refused r from h]

theorem step_of_idle_nil {s : State} (h : s.activity = .idle) (hr : s.requests = []) : step s = .next s := by
  have hp := present_of_idle_nil h hr
  have hf : fetch s = none := by
    unfold fetch
    rw [h]
  unfold step
  rw [hp, hf]

/-- A run takes its first step first. -/
theorem runSteps_succ {s t : State} (h : step s = .next t) (n : Nat) : runSteps (n + 1) s = runSteps n t := by
  simp only [runSteps, h]

/-- Settles O5: an evaluation in progress, a command on the port, and the three idle cases. -/
theorem stepRunsTheDecodedInstruction : Obligations.StepRunsTheDecodedInstruction := by
  unfold Obligations.StepRunsTheDecodedInstruction
  refine ⟨fun s t c hc h => step_of_evaluating hc h, fun s t code hc h => step_of_commanded hc h,
    fun s r code hc h => step_of_commanded_refused hc h, fun s v k rest hs hr => ?evaluate,
    fun s code args rest hs hr => ?command, fun s hs hr => step_of_idle_nil hs hr⟩
  case evaluate => exact step_congr ((present_of_idle_evaluate hs hr).trans (present_of_evaluating rfl).symm)
  case command => exact step_congr ((present_of_idle_command hs hr).trans (present_of_commanded rfl).symm)

end Sys2Proof.Machine
end

section
/-! SUPPORT. One evaluation of the slice (spec/30_encoding.md R117; the collected rules R162, R188, R208, R246): each class writes
the value of its collected function, given that the wires it reads hold theirs; ten steps chain the ten classes. -/

namespace Sys2Proof.Machine

/-! ### Bits of a word made from an integer -/

theorem getLsbD_ofInt_of_lt {n o : Nat} (ho : o < n) (v : Int) : (BitVec.ofInt n v).getLsbD o = v.testBit o := by
  cases v with
  | ofNat m =>
    rw [Int.ofNat_eq_natCast, BitVec.ofInt_natCast, BitVec.getLsbD_ofNat, decide_eq_true ho, Bool.true_and]
    rfl
  | negSucc m =>
    rw [BitVec.ofInt_negSucc_eq_not_ofNat, BitVec.getLsbD_not, BitVec.getLsbD_ofNat, decide_eq_true ho, Bool.true_and]
    rfl

/-- A one-bit field of a word, as the number that `bitOf` names. -/
theorem toNat_extractLsb'_ofInt {n o : Nat} (ho : o < n) (v : Int) :
    (((BitVec.ofInt n v).extractLsb' o 1).toNat : Int) = bitOf v o := by
  rw [extractLsb'_one, getLsbD_ofInt_of_lt ho, int_testBit_eq_decide_ediv, bitOf]
  obtain h | h := Int.emod_two_eq (v / 2 ^ o) <;> simp [h]

theorem toNat_extractLsb'_eq_bitOf {n o : Nat} (ho : o < n) (b : BitVec n) :
    ((b.extractLsb' o 1).toNat : Int) = bitOf b.toInt o := by
  rw [← toNat_extractLsb'_ofInt ho, BitVec.ofInt_toInt]

theorem toNat_not_bit (b : BitVec 1) : ((~~~b).toNat : Int) = 1 - b.toNat := by
  revert b
  decide

theorem toNat_xor_bits (a b : BitVec 1) : ((a ^^^ b).toNat : Int) = if (a.toNat : Int) = b.toNat then 0 else 1 := by
  revert a b
  decide

/-- The logic function of two integers, in 48 bits. -/
theorem ofInt_intLogic (f : LogicFn) (x z : Int) :
    BitVec.ofInt 48 (intLogic f x z)
      = BitVec.ofFnLE fun n : Fin 48 => f.at ((BitVec.ofInt 48 x).getLsbD n) ((BitVec.ofInt 48 z).getLsbD n) := by
  refine BitVec.eq_of_getLsbD_eq fun i hi => ?_
  rw [getLsbD_ofInt_of_lt hi, intLogic_testBit, BitVec.getLsbD_ofFnLE, dif_pos hi, getLsbD_ofInt_of_lt hi,
    getLsbD_ofInt_of_lt hi]

/-! ### The ports after conditioning (R150) -/

section
variable {s : State} {v : Supplied} {k : Control}

theorem cs_of_conditioned (h : s.ports = condition v) : cs s = sext 48 v.c := by
  rw [cs, h]
  exact toInt_ofInt_eq_sext ..

theorem pcins_of_conditioned (h : s.ports = condition v) : pcins s = sext 48 v.pcin := by
  rw [pcins, h]
  exact toInt_ofInt_eq_sext ..

theorem pfbs_of_conditioned (h : s.ports = condition v) : pfbs s = sext 48 v.pfb := by
  rw [pfbs, h]
  exact toInt_ofInt_eq_sext ..

/-! ### The first stage (R162) -/

theorem exec_decodeAsel (v : Supplied) (k : Control) :
    ∃ a : BitVec 30, a.toInt = refAsel v k ∧ ∀ s : State, s.ports = condition v →
      exec (decodeAsel k) s = .next (s.withNodes { s.nodes with asel := a }) := by
  have hcap : k.aCap1 = BitVec.ofBool (k.inmode.getLsbD 0) := extractLsb'_one ..
  unfold decodeAsel refAsel Control.aZero
  rw [hcap]
  cases k.inmode.getLsbD 1 with
  | true => exact ⟨0, rfl, fun _ _ => rfl⟩
  | false =>
    cases k.inmode.getLsbD 0 with
    | true => exact ⟨(condition v).a1, toInt_ofInt_eq_sext .., fun s h => by rw [← h]; rfl⟩
    | false => exact ⟨(condition v).a2, toInt_ofInt_eq_sext .., fun s h => by rw [← h]; rfl⟩

theorem exec_decodeBsel (v : Supplied) (k : Control) :
    ∃ b : BitVec 18, b.toInt = refBsel v k ∧ ∀ s : State, s.ports = condition v →
      exec (decodeBsel k) s = .next (s.withNodes { s.nodes with bsel := b }) := by
  unfold decodeBsel refBsel Control.bCap1
  cases k.inmode.getLsbD 4 with
  | true => exact ⟨(condition v).b1, toInt_ofInt_eq_sext .., fun s h => by rw [← h]; rfl⟩
  | false => exact ⟨(condition v).b2, toInt_ofInt_eq_sext .., fun s h => by rw [← h]; rfl⟩

theorem exec_decodeDgate (v : Supplied) (k : Control) :
    ∃ d : BitVec 25, d.toInt = (if k.inmode.getLsbD 2 then sext 25 v.d else 0) ∧ ∀ s : State, s.ports = condition v →
      exec (decodeDgate k) s = .next (s.withNodes { s.nodes with deff := d }) := by
  unfold decodeDgate Control.dEn
  cases k.inmode.getLsbD 2 with
  | true => exact ⟨(condition v).d, toInt_ofInt_eq_sext .., fun s h => by rw [← h]; rfl⟩
  | false => exact ⟨0, rfl, fun _ _ => rfl⟩

theorem exec_decodePreadd (v : Supplied) (k : Control) :
    ∃ a : BitVec 25, a.toInt = refAd v k ∧ ∀ s : State, s.nodes.asel.toInt = refAsel v k →
      s.nodes.deff.toInt = (if k.inmode.getLsbD 2 then sext 25 v.d else 0) →
      exec (decodePreadd k) s = .next (s.withNodes { s.nodes with ad := a }) := by
  unfold decodePreadd refAd Control.sub
  cases k.inmode.getLsbD 3 with
  | true => exact ⟨_, toInt_ofInt_eq_sext .., fun s ha hd => by rw [← ha, ← hd, ← a25_toInt]; rfl⟩
  | false => exact ⟨_, toInt_ofInt_eq_sext .., fun s ha hd => by rw [← ha, ← hd, ← a25_toInt]; rfl⟩

theorem exec_mult_ref (ha : s.nodes.ad.toInt = refAd v k) (hb : s.nodes.bsel.toInt = refBsel v k) :
    exec .mult s = .next (s.withNodes { s.nodes with m := refM v k }) := by
  rw [exec_mult, ha, hb, refM]

/-! ### The muxes (R188) -/

theorem exec_decodeXmux (h : s.ports = condition v) (ha : s.nodes.asel.toInt = refAsel v k)
    (hb : s.nodes.bsel.toInt = refBsel v k) (hm : s.nodes.m = refM v k) :
    exec (decodeXmux k) s = .next (s.withNodes { s.nodes with x := refX v k }) := by
  unfold refX
  rw [← k.xsel_toNat, ← k.ysel_toNat]
  split
  next hsel =>
    obtain ⟨hx, -⟩ := Prod.mk.inj hsel
    rw [decodeXmux_zero hx]
    rfl
  next hsel =>
    obtain ⟨hx, hy⟩ := Prod.mk.inj hsel
    rw [decodeXmux_m hx hy, ← hm]
    rfl
  next hy hsel =>
    obtain ⟨hx, rfl⟩ := Prod.mk.inj hsel
    rw [decodeXmux_mIll hx hy]
    rfl
  next hsel =>
    obtain ⟨hx, -⟩ := Prod.mk.inj hsel
    rw [decodeXmux_p hx, ← pfbs_of_conditioned h]
    rfl
  next h0 _ h1 h2 hsel =>
    obtain ⟨rfl, -⟩ := Prod.mk.inj hsel
    have hab : ab s = refAb v k := by rw [ab_eq_sext, ha, hb, refAb]
    rw [decodeXmux_ab h0 h1 h2, ← hab]
    rfl

theorem exec_decodeYmux (h : s.ports = condition v) (hm : s.nodes.m = refM v k) :
    exec (decodeYmux k) s = .next (s.withNodes { s.nodes with y := refY s.params v k }) := by
  unfold refY
  rw [← k.xsel_toNat, ← k.ysel_toNat]
  split
  next hsel =>
    obtain ⟨hy, -⟩ := Prod.mk.inj hsel
    rw [decodeYmux_zero hy]
    rfl
  next hsel =>
    obtain ⟨hy, hx⟩ := Prod.mk.inj hsel
    rw [decodeYmux_m hy hx]
    split
    next hdup => rw [exec_ymuxM_dup hdup, hm]; rfl
    next hsum => rw [exec_ymuxM_sum hsum]; rfl
  next hx hsel =>
    obtain ⟨hy, rfl⟩ := Prod.mk.inj hsel
    rw [decodeYmux_mIll hy hx]
    rfl
  next hsel =>
    obtain ⟨hy, -⟩ := Prod.mk.inj hsel
    rw [decodeYmux_ones hy]
    rfl
  next h0 _ h1 h2 hsel =>
    obtain ⟨rfl, -⟩ := Prod.mk.inj hsel
    rw [decodeYmux_c h0 h1 h2, ← cs_of_conditioned h]
    rfl

theorem exec_decodeZmux (h : s.ports = condition v) (k : Control) :
    exec (decodeZmux k) s = .next (s.withNodes { s.nodes with z := refZ s.params v k }) := by
  have hx : BitVec.ofNat 2 (k.opmode.toNat % 4) = k.xsel := by
    rw [← k.xsel_toNat, BitVec.ofNat_toNat, BitVec.setWidth_eq]
  have hy : BitVec.ofNat 2 (k.opmode.toNat / 4 % 4) = k.ysel := by
    rw [← k.ysel_toNat, BitVec.ofNat_toNat, BitVec.setWidth_eq]
  unfold decodeZmux refZ
  rw [← k.zsel_toNat, hx, hy, ← pcins_of_conditioned h, ← pfbs_of_conditioned h, ← cs_of_conditioned h]
  generalize k.zsel.toNat = z
  match z with
  | 0 | 1 | 2 | 3 | 5 | 6 => rfl
  | 4 => exact exec_zmuxPcond s k.xsel k.ysel
  | _ + 7 => rfl

/-! ### The carry select (R208) -/

theorem exec_decodeCin (h : s.ports = condition v) (ha : s.nodes.asel.toInt = refAsel v k)
    (hb : s.nodes.bsel.toInt = refBsel v k) :
    ∃ c, exec (decodeCin k) s = .next (s.withNodes { s.nodes with cin := c }) ∧ (c.toNat : Int) = refCin v k := by
  have hpcin : ((pcin47 s).toNat : Int) = bitOf v.pcin 47 := by
    rw [pcin47, h]
    exact toNat_extractLsb'_ofInt (by decide) _
  have hpfb : ((pfb47 s).toNat : Int) = bitOf v.pfb 47 := by
    rw [pfb47, h]
    exact toNat_extractLsb'_ofInt (by decide) _
  have hasel : ((asel24 s).toNat : Int) = bitOf (refAsel v k) 24 := by
    rw [← ha]
    exact toNat_extractLsb'_eq_bitOf (by decide) _
  have hbsel : ((bsel17 s).toNat : Int) = bitOf (refBsel v k) 17 := by
    rw [← hb]
    exact toNat_extractLsb'_eq_bitOf (by decide) _
  unfold decodeCin refCin
  rw [← hpcin, ← hpfb, ← hasel, ← hbsel]
  generalize k.carryinsel.toNat = n
  match n with
  | 0 => exact ⟨k.carryin, rfl, rfl⟩
  | 1 => exact ⟨_, exec_cinNpcin47 s, toNat_not_bit _⟩
  | 2 => exact ⟨k.carrycascin, rfl, rfl⟩
  | 3 => exact ⟨_, exec_cinPcin47 s, rfl⟩
  | 4 => exact ⟨s.ports.ccofb, rfl, by rw [h]; rfl⟩
  | 5 => exact ⟨_, exec_cinNp47 s, toNat_not_bit _⟩
  | 6 => exact ⟨_, exec_cinA24xb17 s, toNat_xor_bits _ _⟩
  | _ + 7 => exact ⟨_, exec_cinP47 s, rfl⟩

end

/-! ### The ALU (R246) -/

/-- The integer that the ALU writes to `R` for the controls `k`, from the values of its wires. -/
def aluResult (p : Params) (k : Control) (x y z cin : Int) : Int :=
  if k.arith then
    match k.alumode.toNat with
    | 0 => x + y + z + cin
    | 1 => x + y + (-z - 1) + cin
    | 2 => -(x + y + z + cin) - 1
    | 3 => z - (x + y + cin)
    | _ => 0
  else
    match lookupLogic p.logicTable ⟨k.ysel, k.alumode⟩ with
    | some f => intLogic f x z
    | none => 0

/-- In logic mode the Y code is that of the column. -/
theorem ysel_of_logic {k : Control} (h : k.arith = false) : k.ysel = if k.mirrored then 2 else 0 := by
  have table : ∀ opmode : BitVec 7, opmode.getLsbD 2 = false →
      opmode.extractLsb' 2 2 = if opmode.getLsbD 3 then 2 else 0 := by decide
  exact table k.opmode h

theorem eq_ofNat_of_toNat_eq {n m : Nat} {b : BitVec n} (h : b.toNat = m) : b = BitVec.ofNat n m := by
  rw [← h, BitVec.ofNat_toNat, BitVec.setWidth_eq]

/-- Each logic code with YSEL = 0, a row of its own or not, writes its cell. -/
theorem exec_decodeLogicY0 (s : State) (alumode : BitVec 4) :
    exec (decodeLogicY0 alumode) s = writeR (tableLogic s 0 alumode) s := by
  unfold decodeLogicY0
  split
  case h_9 => rfl
  all_goals
    next h =>
      obtain rfl := eq_ofNat_of_toNat_eq h
      rfl

/-- The same with YSEL = 2. -/
theorem exec_decodeLogicY2 (s : State) (alumode : BitVec 4) :
    exec (decodeLogicY2 alumode) s = writeR (tableLogic s 2 alumode) s := by
  unfold decodeLogicY2
  split
  case h_9 => rfl
  all_goals
    next h =>
      obtain rfl := eq_ofNat_of_toNat_eq h
      rfl

theorem exec_decodeArith (s : State) {k : Control} (h : k.arith = true) :
    exec (decodeArith k.alumode) s
      = writeR (aluResult s.params k s.nodes.x s.nodes.y s.nodes.z s.nodes.cin.toNat) s := by
  unfold decodeArith aluResult
  rw [if_pos h]
  generalize k.alumode.toNat = n
  match n with
  | 0 => exact exec_add3 s
  | 1 => exact exec_add3Nz s
  | 2 => exact exec_notAdd3 s
  | 3 => exact exec_zsub s
  | _ + 4 => rfl

/-- The ALU writes the result of its controls. -/
theorem exec_decodeAlu (s : State) (k : Control) :
    exec (decodeAlu k) s = writeR (aluResult s.params k s.nodes.x s.nodes.y s.nodes.z s.nodes.cin.toNat) s := by
  cases h : k.arith with
  | true => rw [decodeAlu_of_arith h, exec_decodeArith s h]
  | false =>
    have hcell : aluResult s.params k s.nodes.x s.nodes.y s.nodes.z s.nodes.cin.toNat
        = tableLogic s k.ysel k.alumode := by
      unfold aluResult
      rw [h]
      rfl
    rw [hcell, ysel_of_logic h]
    unfold decodeAlu
    rw [h]
    cases k.mirrored with
    | true => exact exec_decodeLogicY2 s _
    | false => exact exec_decodeLogicY0 s _

/-- The low 48 bits of the ALU's result are the collected `P`. -/
theorem low48_aluResult (p : Params) (v : Supplied) (k : Control) :
    low48 (aluResult p k (refX v k) (refY p v k) (refZ p v k) (refCin v k)) = refP p v k := by
  unfold aluResult refP
  change low48 (if k.arith then _ else _) = if k.arith then _ else _
  cases h : k.arith with
  | true =>
    generalize k.alumode.toNat = n
    match n with
    | 0 | 1 | 2 | 3 => rfl
    | _ + 4 => rfl
  | false =>
    unfold refLogic
    change low48 (match lookupLogic p.logicTable ⟨k.ysel, k.alumode⟩ with | some f => _ | none => 0)
      = match lookupLogic p.logicTable ⟨k.ysel, k.alumode⟩ with | some f => _ | none => 0
    cases lookupLogic p.logicTable ⟨k.ysel, k.alumode⟩ with
    | some f => exact ofInt_intLogic f _ _
    | none => rfl

/-! ### The ten steps (R117) -/

/-- The state in which an evaluation of `v` under `k` stands at the class `c`, with the wires `n`. -/
def evaluatingAt (s : State) (rest : List Request) (v : Supplied) (k : Control) (c : OpClass) (n : Nodes) : State :=
  { s with requests := rest, activity := .evaluating c, ports := condition v, ctl := k, nodes := n }

/-- The micro-operation that the control inputs select for a class. -/
def Control.select (k : Control) : OpClass → Instr
  | .asel => decodeAsel k
  | .bsel => decodeBsel k
  | .dgate => decodeDgate k
  | .preadd => decodePreadd k
  | .mult => .mult
  | .xmux => decodeXmux k
  | .ymux => decodeYmux k
  | .zmux => decodeZmux k
  | .cin => decodeCin k
  | .alu => decodeAlu k

/-- The packed word selects what the control inputs select. -/
theorem decodeClass_pack (c : OpClass) (k : Control) : decodeClass c k.pack = Control.select k c := by
  unfold decodeClass
  rw [k.unpack_pack]
  cases c <;> rfl

/-- A step of an evaluation by its control inputs. -/
theorem step_of_select {s t : State} {c : OpClass} {k : Control} (hc : s.activity = .evaluating c) (hk : s.ctl = k)
    (h : exec (Control.select k c) s = .next t) : step s = .next { t with activity := Activity.after c } := by
  refine step_of_evaluating hc ?_
  rw [hk, decodeClass_pack, h]

section
variable {s : State} {rest : List Request} {v : Supplied} {k : Control} {n n' : Nodes}

/-- A class that is followed by another one writes its wire, and the evaluation moves on. -/
theorem runSteps_evaluatingAt (m : Nat) {c c' : OpClass} (hc : c.succ = some c')
    (h : exec (Control.select k c) (evaluatingAt s rest v k c n) = .next ((evaluatingAt s rest v k c n).withNodes n')) :
    runSteps (m + 1) (evaluatingAt s rest v k c n) = runSteps m (evaluatingAt s rest v k c' n') := by
  have hafter : Activity.after c = .evaluating c' := by
    unfold Activity.after
    rw [hc]
  have hstep : step (evaluatingAt s rest v k c n) = .next (evaluatingAt s rest v k c' n') := by
    rw [step_of_select rfl rfl h, hafter]
    rfl
  exact runSteps_succ hstep m

/-- The ALU ends the evaluation. -/
theorem runSteps_evaluatingAt_alu :
    runSteps 1 (evaluatingAt s rest v k .alu n)
      = .next { s with
          requests := rest, activity := .idle, ports := condition v, ctl := k,
          nodes := { n with r := aluResult s.params k n.x n.y n.z n.cin.toNat },
          p := low48 (aluResult s.params k n.x n.y n.z n.cin.toNat) } := by
  have hstep : step (evaluatingAt s rest v k .alu n) = _ := step_of_select rfl rfl (exec_decodeAlu _ k)
  exact runSteps_succ hstep 0

end

/-- The wires after an evaluation hold the collected functions (R162, R188, R208), `R` the ALU's result. -/
structure Collected (p : Params) (v : Supplied) (k : Control) (n : Nodes) : Prop where
  asel : n.asel.toInt = refAsel v k
  bsel : n.bsel.toInt = refBsel v k
  ad : n.ad.toInt = refAd v k
  m : n.m = refM v k
  x : n.x = refX v k
  y : n.y = refY p v k
  z : n.z = refZ p v k
  cin : (n.cin.toNat : Int) = refCin v k
  r : n.r = aluResult p k (refX v k) (refY p v k) (refZ p v k) (refCin v k)

/-- Ten steps from an idle state with an evaluation asked for. -/
theorem runSteps_ten {s : State} {v : Supplied} {k : Control} {rest : List Request} (hs : s.activity = .idle)
    (hr : s.requests = .evaluate v k :: rest) :
    ∃ n : Nodes, Collected s.params v k n
      ∧ runSteps 10 s = .next { s with requests := rest, activity := .idle, ports := condition v, ctl := k, nodes := n,
                                       p := refP s.params v k } := by
  have hstart : runSteps 10 s = runSteps 10 (evaluatingAt s rest v k .asel s.nodes) := by
    have hstep := step_congr ((present_of_idle_evaluate hs hr).trans (present_of_evaluating rfl).symm)
    simp only [runSteps, hstep]
    rfl
  obtain ⟨a, ha, hasel⟩ := exec_decodeAsel v k
  obtain ⟨b, hb, hbsel⟩ := exec_decodeBsel v k
  obtain ⟨d, hd, hdgate⟩ := exec_decodeDgate v k
  obtain ⟨ad, had, hpreadd⟩ := exec_decodePreadd v k
  obtain ⟨c, hcin, hc⟩ := exec_decodeCin (v := v) (k := k) (s := evaluatingAt s rest v k .cin
    { s.nodes with
      asel := a, bsel := b, deff := d, ad := ad, m := refM v k, x := refX v k, y := refY s.params v k,
      z := refZ s.params v k }) rfl ha hb
  refine ⟨⟨a, b, d, ad, refM v k, refX v k, refY s.params v k, refZ s.params v k, c,
      aluResult s.params k (refX v k) (refY s.params v k) (refZ s.params v k) (refCin v k)⟩,
    ⟨ha, hb, had, rfl, rfl, rfl, rfl, hc, rfl⟩, ?_⟩
  calc runSteps 10 s
      = runSteps 10 (evaluatingAt s rest v k .asel s.nodes) := hstart
    _ = runSteps 9 (evaluatingAt s rest v k .bsel { s.nodes with asel := a }) :=
        runSteps_evaluatingAt 9 rfl (hasel _ rfl)
    _ = runSteps 8 (evaluatingAt s rest v k .dgate { s.nodes with asel := a, bsel := b }) :=
        runSteps_evaluatingAt 8 rfl (hbsel _ rfl)
    _ = runSteps 7 (evaluatingAt s rest v k .preadd { s.nodes with asel := a, bsel := b, deff := d }) :=
        runSteps_evaluatingAt 7 rfl (hdgate _ rfl)
    _ = runSteps 6 (evaluatingAt s rest v k .mult { s.nodes with asel := a, bsel := b, deff := d, ad := ad }) :=
        runSteps_evaluatingAt 6 rfl (hpreadd _ ha hd)
    _ = runSteps 5 (evaluatingAt s rest v k .xmux
          { s.nodes with asel := a, bsel := b, deff := d, ad := ad, m := refM v k }) :=
        runSteps_evaluatingAt 5 rfl (exec_mult_ref had hb)
    _ = runSteps 4 (evaluatingAt s rest v k .ymux
          { s.nodes with asel := a, bsel := b, deff := d, ad := ad, m := refM v k, x := refX v k }) :=
        runSteps_evaluatingAt 4 rfl (exec_decodeXmux rfl ha hb rfl)
    _ = runSteps 3 (evaluatingAt s rest v k .zmux
          { s.nodes with
            asel := a, bsel := b, deff := d, ad := ad, m := refM v k, x := refX v k, y := refY s.params v k }) :=
        runSteps_evaluatingAt 3 rfl (exec_decodeYmux rfl rfl)
    _ = runSteps 2 (evaluatingAt s rest v k .cin
          { s.nodes with
            asel := a, bsel := b, deff := d, ad := ad, m := refM v k, x := refX v k, y := refY s.params v k,
            z := refZ s.params v k }) := runSteps_evaluatingAt 2 rfl (exec_decodeZmux rfl k)
    _ = runSteps 1 (evaluatingAt s rest v k .alu
          ⟨a, b, d, ad, refM v k, refX v k, refY s.params v k, refZ s.params v k, c, s.nodes.r⟩) :=
        runSteps_evaluatingAt 1 rfl hcin
    _ = _ := by rw [runSteps_evaluatingAt_alu, hc, low48_aluResult]

/-- Settles O23: the chain of the ten classes, `runSteps_ten`. -/
theorem tenStepsGiveTheCollectedResult : Obligations.TenStepsGiveTheCollectedResult := by
  unfold Obligations.TenStepsGiveTheCollectedResult
  intro s v k rest hs hr
  obtain ⟨n, hn, hrun⟩ := runSteps_ten hs hr
  exact ⟨n, hrun, hn.asel, hn.bsel, hn.ad, hn.m, hn.x, hn.y, hn.z, hn.cin⟩

/-- Settles O24: both runs end with the same collected `P`. -/
theorem thePOfAnEvaluationIsAFunctionOfItsInputs : Obligations.ThePOfAnEvaluationIsAFunctionOfItsInputs := by
  unfold Obligations.ThePOfAnEvaluationIsAFunctionOfItsInputs
  intro s₁ s₂ v k rest₁ rest₂ hs₁ hs₂ hr₁ hr₂ hparams
  obtain ⟨n₁, -, hrun₁⟩ := runSteps_ten hs₁ hr₁
  obtain ⟨n₂, -, hrun₂⟩ := runSteps_ten hs₂ hr₂
  exact ⟨_, _, hrun₁, hrun₂, by rw [hparams]⟩

/-! ### Two readings of the collected result -/

/-- The controls that route the product to both muxes and add (R176, R221). -/
theorem refP_of_product {p : Params} {v : Supplied} {k : Control} (hop : k.opmode.toNat % 16 = 5) (hk : k.alumode = 0) :
    refX v k = refM v k
      ∧ (p.multSplit = .dup → refY p v k = refM v k) ∧ (p.multSplit = .sum → refY p v k = 0)
      ∧ refP p v k = BitVec.ofInt 48 (refX v k + refY p v k + refZ p v k + refCin v k) := by
  have hx : k.opmode.toNat % 4 = 1 := by omega
  have hy : k.opmode.toNat / 4 % 4 = 1 := by omega
  have harith : k.opmode.getLsbD 2 = true := by
    have table : ∀ opmode : BitVec 7, opmode.toNat % 16 = 5 → opmode.getLsbD 2 = true := by decide
    exact table _ hop
  refine ⟨?_, fun hdup => ?_, fun hsum => ?_, ?_⟩
  · simp only [refX, hx, hy]
  · simp only [refY, hx, hy, hdup]
  · simp only [refY, hx, hy, hsum]
  · rw [refP, if_pos harith, hk]
    rfl

/-- Settles O25: `P` is the sum of X, Y, Z and the carry (`refP_of_product`), and Y is `M` or 0. -/
theorem theTwoReadingsOfTheProduct : Obligations.TheTwoReadingsOfTheProduct := by
  unfold Obligations.TheTwoReadingsOfTheProduct
  intro s v k rest hs hr hop hk
  obtain ⟨n, -, hrun⟩ := runSteps_ten hs hr
  obtain ⟨hx, hdupY, hsumY, hp⟩ := refP_of_product (p := s.params) (v := v) hop hk
  refine ⟨_, hrun, fun hdup => ?dup, fun hsum => ?sum⟩
  case dup =>
    show refP s.params v k = _
    rw [hp, hx, hdupY hdup, two_mul]
  case sum =>
    show refP s.params v k = _
    rw [hp, hx, hsumY hsum, Int.add_zero]

/-! ### Reserved codes of the ALU (R225, R244) -/

/-- A code that is reserved in its mode gives 0, whatever the operands. -/
theorem aluResult_reserved {p : Params} {k : Control} (h : (k.opmode.getLsbD 2 = true ∧ 4 ≤ k.alumode.toNat)
    ∨ (k.opmode.getLsbD 2 = false ∧ lookupLogic p.logicTable ⟨k.opmode.extractLsb' 2 2, k.alumode⟩ = none))
    (x y z cin : Int) : aluResult p k x y z cin = 0 := by
  unfold aluResult
  rcases h with ⟨harith, hmode⟩ | ⟨hlogic, hnone⟩
  · rw [if_pos (show k.arith = true from harith)]
    obtain ⟨n, hn⟩ := Nat.exists_eq_add_of_le' hmode
    simp only [hn]
  · have harith : ¬ k.arith = true := by
      rw [show k.arith = false from hlogic]
      decide
    have hcell : lookupLogic p.logicTable ⟨k.ysel, k.alumode⟩ = none := hnone
    rw [if_neg harith, hcell]

/-- Settles O22: the cell of the code, or 0; in an evaluation `aluResult_reserved`; the reference table's codes. -/
theorem reservedAluCodesGiveZero : Obligations.ReservedAluCodesGiveZero := by
  unfold Obligations.ReservedAluCodesGiveZero
  refine ⟨fun s code => ⟨answersCell_of_writeR rfl, fun hnone => ?zero⟩, fun s v k rest hs hr hcode => ?evaluation,
    fun code => ?table⟩
  case zero =>
    show writeR (tableLogic s code.ysel code.alumode) s = _
    rw [tableLogic_none hnone]
    rfl
  case evaluation =>
    obtain ⟨n, hn, hrun⟩ := runSteps_ten hs hr
    have hzero := aluResult_reserved hcode (refX v k) (refY s.params v k) (refZ s.params v k) (refCin v k)
    refine ⟨_, hrun, ?_, hn.r.trans hzero⟩
    show refP s.params v k = 0
    rw [← low48_aluResult, hzero]
    rfl
  case table =>
    obtain ⟨ysel, alumode⟩ := code
    revert ysel alumode
    decide

end Sys2Proof.Machine
end

section
/-! SUPPORT. The lifecycle of the tile and the invariant of the machine (spec/44_tile_lifecycle.md R260 to R267; spec/10_state.md
R38 to R51): what each command answers, what any instruction can do to the tile, and that a step keeps a good state good. -/

namespace Sys2Proof.Machine

/-! ### INIT and the refusals (R260, R267) -/

theorem exec_init_of_fp32 {s : State} (ht : s.tile = none) (hk : s.args.fmt.kind = .fp32) :
    exec .init s =
      if s.args.rows = 0 ∨ s.args.cols = 0 ∨ s.args.depth = 0 then .next (returnErr s .config)
      else if s.args.allocOk = false then .next (returnErr s .alloc)
      else .next (returnOk
        (s.withTile (some (Tile.fresh s.args.cfg s.args.fmt s.args.rows s.args.cols s.args.depth)))) := by
  show execInit s = _
  unfold execInit
  rw [ht]
  exact if_neg (not_not.2 hk)

/-- Settles O32: both checks of `exec_init_of_fp32` pass, and the fresh tile is the one written out. -/
theorem initCreatesAResetTile : Obligations.InitCreatesAResetTile := by
  unfold Obligations.InitCreatesAResetTile
  intro s ht hk hr hc hd ha
  rw [exec_init_of_fp32 ht hk, if_neg (by simp [hr, hc, hd]), if_neg (by simp [ha])]
  rfl

/-- Settles O33: the first and the second check of `exec_init_of_fp32`. -/
theorem initChecksConfigBeforeAlloc : Obligations.InitChecksConfigBeforeAlloc := by
  unfold Obligations.InitChecksConfigBeforeAlloc
  intro s ht hk
  refine ⟨fun hzero => ?config, fun hr hc hd ha => ?alloc⟩
  case config =>
    rw [exec_init_of_fp32 ht hk, if_pos hzero]
    rfl
  case alloc =>
    rw [exec_init_of_fp32 ht hk, if_neg (by simp [hr, hc, hd]), if_pos ha]
    rfl

theorem exec_init_of_live {s : State} {t : Tile} (ht : s.tile = some t) : exec .init s = .refused .initOnLive := by
  show execInit s = _
  unfold execInit
  rw [ht]

theorem exec_init_of_otherKind {s : State} (ht : s.tile = none) (hk : s.args.fmt.kind ≠ .fp32) :
    exec .init s = .refused .unsupportedFormat := by
  show execInit s = _
  unfold execInit
  rw [ht]
  exact if_pos hk

theorem exec_reset_of_unallocated {s : State} (ht : s.tile = none) : exec .reset s = .refused .unallocated := by
  show execReset s = _
  unfold execReset
  rw [ht]

theorem exec_step_of_unallocated {s : State} (ht : s.tile = none) : exec .step s = .refused .unallocated := by
  show execStep s = _
  unfold execStep
  rw [ht]

theorem exec_gemm_of_unallocated {s : State} (ht : s.tile = none) : exec .gemm s = .refused .unallocated := by
  show execGemm s = _
  unfold execGemm
  rw [ht]

/-- Settles O38: the refusals, command by command. -/
theorem commandsOutsideTheLifecycleAreRefused : Obligations.CommandsOutsideTheLifecycleAreRefused := by
  unfold Obligations.CommandsOutsideTheLifecycleAreRefused
  exact ⟨fun s t ht => exec_init_of_live ht,
    fun s ht => ⟨exec_reset_of_unallocated ht, exec_step_of_unallocated ht, exec_gemm_of_unallocated ht⟩,
    fun s ht hk => exec_init_of_otherKind ht hk⟩

/-! ### RESET twice (R264, R393) -/

theorem Tile.cleared_cleared (t : Tile) : t.cleared.cleared = t.cleared := by
  have hlanes : t.cleared.lanes.map Lane.cleared = t.cleared.lanes := by
    rw [Tile.cleared_lanes, List.map_map]
    exact List.map_congr_left fun l _ => Lane.cleared_cleared l
  unfold Tile.cleared at hlanes ⊢
  rw [hlanes]

/-- A fresh tile is as after RESET, whatever its dimensions (R53). -/
theorem Tile.cleared_fresh (cfg : Cfg) (fmt : Fmt) (rows cols depth : Nat) :
    (Tile.fresh cfg fmt rows cols depth).cleared = Tile.fresh cfg fmt rows cols depth := by
  have hlane : (Lane.fresh cfg).cleared = Lane.fresh cfg := Lane.cleared_eq_fresh (Lane.fresh_wf Config.params cfg)
  have hlanes : (Tile.fresh cfg fmt rows cols depth).lanes.map Lane.cleared
      = (Tile.fresh cfg fmt rows cols depth).lanes := by
    rw [Tile.fresh_lanes, List.map_replicate, hlane]
  unfold Tile.cleared
  rw [hlanes]
  rfl

/-- RESET on a tile that is as after RESET, with OK on the result port, changes nothing. -/
theorem exec_reset_of_cleared {s : State} {t : Tile} (ht : t.cleared = t) :
    exec .reset (returnOk (s.withTile (some t))) = .next (returnOk (s.withTile (some t))) := by
  rw [exec_reset_of_live (t := t) rfl, ht]
  rfl

/-- Settles O36: RESET and a successful INIT both leave a cleared tile with OK. -/
theorem resetIsIdempotent : Obligations.ResetIsIdempotent := by
  unfold Obligations.ResetIsIdempotent
  refine ⟨fun s t h => ?reset, fun s t h hok => ?init⟩
  case reset =>
    obtain ⟨u, -, rfl⟩ := execReset_next h
    exact exec_reset_of_cleared u.cleared_cleared
  case init =>
    obtain ⟨-, -, ⟨-, rfl⟩ | ⟨-, -, rfl⟩ | ⟨-, -, rfl⟩⟩ := execInit_next h
    · cases hok
    · cases hok
    · exact exec_reset_of_cleared (Tile.cleared_fresh ..)

/-! ### What any instruction can do to the tile (R38, R39, R44) -/

/-- Two tiles with the same dimensions, configuration and format. -/
def Tile.SameShape (t t' : Tile) : Prop :=
  t'.rows = t.rows ∧ t'.cols = t.cols ∧ t'.depth = t.depth ∧ t'.cfg = t.cfg ∧ t'.fmt = t.fmt

theorem Tile.SameShape.refl (t : Tile) : t.SameShape t := ⟨rfl, rfl, rfl, rfl, rfl⟩

theorem gemmRun_sameShape (p : Params) (m : Memory) (g : GemmArrays) (t : Tile) : t.SameShape (gemmRun p m g t) := by
  obtain ⟨hrows, hcols, hdepth, hcfg, hfmt, -, -⟩ :=
    foldl_gemmTap p m g (gemmTaps t.rows t.cols t.depth t.cfg.totalLat) (gemmStart t)
  exact ⟨hrows, hcols, hdepth, hcfg, hfmt⟩

/-- A GEMM keeps the number of lanes and counts one cycle for each of its taps (R293). -/
theorem gemmRun_lanes_length (p : Params) (m : Memory) (g : GemmArrays) (t : Tile) :
    (gemmRun p m g t).lanes.length = t.lanes.length := by
  obtain ⟨-, -, -, -, -, hlen, -⟩ :=
    foldl_gemmTap p m g (gemmTaps t.rows t.cols t.depth t.cfg.totalLat) (gemmStart t)
  exact hlen.trans (by rw [gemmStart_lanes, List.length_map])

theorem gemmRun_cycle (p : Params) (m : Memory) (g : GemmArrays) (t : Tile) :
    (gemmRun p m g t).cycle = t.rows * t.cols * (t.depth + t.cfg.totalLat + 1) := by
  obtain ⟨-, -, -, -, -, -, hcycle⟩ :=
    foldl_gemmTap p m g (gemmTaps t.rows t.cols t.depth t.cfg.totalLat) (gemmStart t)
  rw [← gemmTaps_length]
  exact hcycle.trans (by rw [gemmStart_cycle, Nat.zero_add])

/-- The four things that an instruction can do to the tile: nothing, create it, destroy it, or work on it in its shape. -/
inductive TileChange (i : Instr) (s u : State) : Prop
  | none (htile : u.tile = s.tile) (hstep : i = .step → u.result.status ≠ some .ok)
  | creates (hi : i = .init) (hs : s.tile = Option.none) (hok : u.result.status = some .ok)
  | destroys (hi : i = .free) (hu : u.tile = Option.none)
  | works (t t' : Tile) (hs : s.tile = some t) (hu : u.tile = some t') (hshape : t.SameShape t')
      (hi : i = .reset ∨ (i = .step ∧ t'.cycle = t.cycle + 1 ∧ u.result.status = some .ok) ∨ i = .gemm)

theorem exec_next_tile {i : Instr} {s u : State} (h : exec i s = .next u) : TileChange i s u := by
  cases hc : i.opClass with
  | some c =>
    obtain ⟨n, p, hn⟩ := exec_slice hc s
    obtain rfl : { s with nodes := n, p := p } = u := by simpa using hn.symm.trans h
    exact .none rfl (by rintro rfl; cases hc)
  | none =>
    cases i with
    | init =>
      obtain ⟨hs, -, ⟨-, rfl⟩ | ⟨-, -, rfl⟩ | ⟨-, -, rfl⟩⟩ := execInit_next h
      · exact .none rfl (by simp)
      · exact .none rfl (by simp)
      · exact .creates rfl hs rfl
    | reset =>
      obtain ⟨t, hs, rfl⟩ := execReset_next h
      exact .works t _ hs rfl (Tile.SameShape.refl t) (.inl rfl)
    | free =>
      obtain rfl := execFree_next h
      exact .destroys rfl rfl
    | step =>
      obtain ⟨t, hs, ⟨-, rfl⟩ | ⟨-, -, rfl⟩⟩ := execStep_next h
      · exact .none rfl (by simp)
      · exact .works t _ hs rfl (Tile.SameShape.refl t) (.inr (.inl ⟨rfl, rfl, rfl⟩))
    | gemm =>
      obtain ⟨t, g, hs, -, -, -, ⟨-, rfl⟩ | ⟨-, rfl⟩⟩ := execGemm_next h
      · exact .none rfl (by simp)
      · exact .works t _ hs rfl (gemmRun_sameShape s.params s.mem g t) (.inr (.inr rfl))
    | cmdRsvd5 | cmdRsvd6 | cmdRsvd7 => cases h
    | _ => cases hc

/-- A micro-operation of the slice leaves tile, memory and result (R80). -/
theorem exec_slice_frame {i : Instr} {s u : State} (hi : i.opClass ≠ none) (h : exec i s = .next u) :
    u.tile = s.tile ∧ u.mem = s.mem ∧ u.result = s.result := by
  obtain ⟨c, hc⟩ := Option.ne_none_iff_exists'.1 hi
  obtain ⟨n, p, hn⟩ := exec_slice hc s
  obtain rfl : { s with nodes := n, p := p } = u := by simpa using hn.symm.trans h
  exact ⟨rfl, rfl, rfl⟩

/-- Settles O46: the four cases of `exec_next_tile`, and the frames of `exec_slice_frame` and `exec_next_frame`. -/
theorem onlyTheLifecycleCommandsCreateAndDestroy : Obligations.OnlyTheLifecycleCommandsCreateAndDestroy := by
  unfold Obligations.OnlyTheLifecycleCommandsCreateAndDestroy
  intro i s u h
  obtain ⟨hparams, -⟩ := exec_next_frame h
  refine ⟨fun t t' ht ht' => ?live, fun hs hu => ?appears, fun hs hu => ?disappears,
    fun hi => exec_slice_frame hi h, hparams⟩
  case live =>
    cases exec_next_tile h with
    | none htile hstep =>
      obtain rfl : t' = t := by simpa [ht, ht'] using htile
      exact ⟨rfl, rfl, rfl, rfl, rfl, fun hne => absurd rfl hne, fun hi => by rw [if_neg (hstep hi), Nat.add_zero]⟩
    | creates hi hs hok => simp [ht] at hs
    | destroys hi hu => simp [ht'] at hu
    | works v v' hs hu hshape hi =>
      obtain rfl : v = t := by simpa [ht] using hs.symm
      obtain rfl : v' = t' := by simpa [ht'] using hu.symm
      obtain ⟨hrows, hcols, hdepth, hcfg, hfmt⟩ := hshape
      refine ⟨hrows, hcols, hdepth, hcfg, hfmt, fun _ => ?_, fun hstep => ?_⟩
      · exact hi.imp_right (Or.imp_left And.left)
      · subst hstep
        obtain hi | ⟨-, hcycle, hok⟩ | hi := hi
        · cases hi
        · rw [if_pos hok, hcycle]
        · cases hi
  case appears =>
    cases exec_next_tile h with
    | none htile hstep => exact absurd (htile.trans hs) hu
    | creates hi hs hok => exact ⟨hi, hok⟩
    | destroys hi hu' => exact absurd hu' hu
    | works v v' hs' => simp [hs] at hs'
  case disappears =>
    cases exec_next_tile h with
    | none htile hstep => exact absurd (htile.symm.trans hu) hs
    | creates hi hs' hok => exact absurd hs' hs
    | destroys hi hu' => exact hi
    | works v v' hs' hu' => simp [hu] at hu'

/-! ### The invariant (R39 to R48, R261, R351) -/

/-- The invariant reads the parameters, the memory, the tile and the result only. -/
theorem State.inv.congr {s t : State} (h : s.inv) (hp : t.params = s.params) (hm : t.mem = s.mem) (ht : t.tile = s.tile)
    (hr : t.result = s.result) : t.inv := by
  unfold State.inv
  rw [hp, hm, ht, hr]
  exact h

/-- An answer with a good memory, a well-formed tile if any, and no output but with OK is good. -/
theorem State.inv.of_tile {s : State} {m : Memory} {u : Option Tile} {r : Result} (hm : Memory.wf m)
    (hu : ∀ t, u = some t → t.wf s.params) (hr : r.out ≠ none → r.status = some .ok) :
    State.inv { s with mem := m, tile := u, result := r } := ⟨hm, hu, hr⟩

theorem tileStep_wf {p : Params} {t : Tile} (h : t.wf p) (r c : Nat) (x : LaneInput) : (tileStep p r c x t).1.wf p := by
  obtain ⟨hrows, hcols, hdepth, hkind, hlen, hlanes, hseq⟩ := h
  exact ⟨hrows, hcols, hdepth, hkind, by simpa using hlen, tileStep_lanes_wf hlanes r c x, hseq⟩

theorem Tile.cleared_wf {p : Params} {t : Tile} (h : t.wf p) : t.cleared.wf p := by
  rw [Tile.cleared_eq_fresh h]
  obtain ⟨hrows, hcols, hdepth, hkind, -⟩ := h
  exact Tile.fresh_wf (Nat.ne_of_gt hrows) (Nat.ne_of_gt hcols) (Nat.ne_of_gt hdepth) hkind

/-- The tile after a GEMM, its sequencer gone, is well formed. -/
theorem gemmRun_wf {p : Params} {t : Tile} (h : t.wf p) (m : Memory) (g : GemmArrays) :
    Tile.wf p { gemmRun p m g t with seq := none } := by
  obtain ⟨hrows, hcols, hdepth, hcfg, hfmt⟩ := gemmRun_sameShape p m g t
  obtain ⟨-, -, -, -, -, hclear, -⟩ := Tile.cleared_wf h
  obtain ⟨h1, h2, h3, hkind, hgrid, -, -⟩ := h
  refine ⟨hrows ▸ h1, hcols ▸ h2, hdepth ▸ h3, (congrArg Fmt.kind hfmt).trans hkind, ?grid, ?lanes, rfl⟩
  case grid =>
    show (gemmRun p m g t).lanes.length = (gemmRun p m g t).rows * (gemmRun p m g t).cols
    rw [gemmRun_lanes_length, hgrid, hrows, hcols]
  case lanes =>
    intro l hl
    show l.wf p (gemmRun p m g t).cfg
    rw [hcfg]
    exact foldl_gemmTap_lanes_wf (t := gemmStart t) m g _ hclear l hl

/-- Every instruction keeps a good state good. -/
theorem exec_inv {i : Instr} {s t : State} (hs : s.inv) (h : exec i s = .next t) : t.inv := by
  obtain ⟨hmem, htile, hout⟩ := id hs
  cases hc : i.opClass with
  | some c =>
    obtain ⟨hparams, -⟩ := exec_next_frame h
    obtain ⟨htile', hmem', hresult⟩ := exec_slice_frame (by simp [hc]) h
    exact hs.congr hparams hmem' htile' hresult
  | none =>
    cases i with
    | init =>
      obtain ⟨hnone, hk, ⟨-, rfl⟩ | ⟨-, -, rfl⟩ | ⟨⟨hr, hc, hd⟩, -, rfl⟩⟩ := execInit_next h
      · exact .of_tile hmem htile (absurd rfl)
      · exact .of_tile hmem htile (absurd rfl)
      · exact .of_tile hmem (by rintro _ ⟨⟩; exact Tile.fresh_wf hr hc hd hk) (absurd rfl)
    | reset =>
      obtain ⟨u, hu, rfl⟩ := execReset_next h
      exact .of_tile hmem (by rintro _ ⟨⟩; exact Tile.cleared_wf (htile u hu)) (absurd rfl)
    | free =>
      obtain rfl := execFree_next h
      exact .of_tile hmem (by rintro _ ⟨⟩) (absurd rfl)
    | step =>
      obtain ⟨u, hu, ⟨-, rfl⟩ | ⟨-, -, rfl⟩⟩ := execStep_next h
      · exact .of_tile hmem htile (absurd rfl)
      · exact .of_tile hmem (by rintro _ ⟨⟩; exact tileStep_wf (htile u hu) _ _ _) fun _ => rfl
    | gemm =>
      obtain ⟨u, g, hu, -, -, -, ⟨-, rfl⟩ | ⟨-, rfl⟩⟩ := execGemm_next h
      · exact .of_tile hmem htile (absurd rfl)
      · exact .of_tile (writeBack_wf _ _ hmem) (by rintro _ ⟨⟩; exact gemmRun_wf (htile u hu) _ _) (absurd rfl)
    | cmdRsvd5 | cmdRsvd6 | cmdRsvd7 => cases h
    | _ => cases hc

theorem present_inv {s : State} (hs : s.inv) : (present s).inv := by
  obtain ⟨hparams, -, -, hresult, htile, hmem⟩ := present_frame s
  exact hs.congr hparams hmem htile hresult

theorem advance_inv {s : State} (hs : s.inv) : (advance s).inv := by
  obtain ⟨a, ha⟩ := advance_eq s
  rw [ha]
  exact hs

theorem step_inv {s t : State} (hs : s.inv) (h : step s = .next t) : t.inv := by
  obtain ⟨-, rfl⟩ | ⟨e, u, -, hexec, rfl⟩ := step_next h
  · exact present_inv hs
  · exact advance_inv (exec_inv (present_inv hs) hexec)

theorem step_params {s t : State} (h : step s = .next t) : t.params = s.params := by
  obtain ⟨hparams, -⟩ := present_frame s
  obtain ⟨-, rfl⟩ | ⟨e, u, -, hexec, rfl⟩ := step_next h
  · exact hparams
  · obtain ⟨hexecParams, -⟩ := exec_next_frame hexec
    obtain ⟨a, ha⟩ := advance_eq u
    rw [ha, ← hparams, ← hexecParams]

/-- Settles O57: presenting, the instruction (`exec_inv`) and advancing each keep the invariant. -/
theorem everyStepKeepsTheInvariant : Obligations.EveryStepKeepsTheInvariant := by
  unfold Obligations.EveryStepKeepsTheInvariant
  exact fun s t hs h => ⟨step_inv hs h, step_params h⟩

/-- Settles O58: nothing is allocated, listed or returned after reset. -/
theorem theResetStateIsGood : Obligations.TheResetStateIsGood := by
  unfold Obligations.TheResetStateIsGood
  exact ⟨.of_tile (s := State.reset) Memory.wf_nil (by rintro _ ⟨⟩) (absurd rfl), rfl, rfl, rfl⟩

/-! ### Delay lines over many pushes (R282) -/

/-- What has left a line and what still stands in it, oldest first, are its content and then the pushes. -/
theorem pushAll_append_reverse {α : Type} (line xs : List α) :
    (pushAll line xs).1 ++ (pushAll line xs).2.reverse = line.reverse ++ xs := by
  induction xs generalizing line with
  | nil => simp [pushAll]
  | cons x xs ih =>
    have hshift : (push line x).1 :: (push line x).2.reverse = line.reverse ++ [x] := by
      simpa using congrArg List.reverse (push_split line x)
    calc (push line x).1 :: (pushAll (push line x).2 xs).1 ++ (pushAll (push line x).2 xs).2.reverse
        = (push line x).1 :: (push line x).2.reverse ++ xs := by rw [List.cons_append, ih, List.cons_append]
      _ = line.reverse ++ x :: xs := by rw [hshift, List.append_assoc, List.singleton_append]

theorem pushAll_lengths {α : Type} (line xs : List α) :
    (pushAll line xs).1.length = xs.length ∧ (pushAll line xs).2.length = line.length := by
  induction xs generalizing line with
  | nil => exact ⟨rfl, rfl⟩
  | cons x xs ih =>
    obtain ⟨hout, hline⟩ := ih (push line x).2
    exact ⟨congrArg (· + 1) hout, hline.trans (push_length line x)⟩

/-- The push `n` returns what stood there first, or what was pushed a line's length earlier. -/
theorem pushAll_getElem? {α : Type} (line xs : List α) {n : Nat} (hn : n < xs.length) :
    (pushAll line xs).1[n]? = if n < line.length then line.reverse[n]? else xs[n - line.length]? := by
  obtain ⟨hout, -⟩ := pushAll_lengths line xs
  rw [← List.getElem?_append_left (by rw [hout]; exact hn), pushAll_append_reverse, List.getElem?_append,
    List.length_reverse]

/-- Settles O43: the lengths, and `pushAll_getElem?`, at the two kinds of slot. -/
theorem aPairLeavesALineAfterItsLength : Obligations.APairLeavesALineAfterItsLength := by
  unfold Obligations.APairLeavesALineAfterItsLength
  refine ⟨fun line xs => ?_, fun line xs => ?_⟩
  · obtain ⟨hout, hline⟩ := pushAll_lengths line xs
    exact ⟨hout, hline, fun n hn => pushAll_getElem? line xs hn⟩
  · obtain ⟨hout, hline⟩ := pushAll_lengths line xs
    exact ⟨hout, hline, fun n hn => pushAll_getElem? line xs hn⟩

end Sys2Proof.Machine
end

section
/-! SUPPORT. A fresh lane over time (spec/45_tile_step.md R280, R286, R297). The inputs of a lane are a function of the number of
the STEP; each line delays what enters it by its length, so the lane after `n` STEPs and the output of each STEP are written
down as functions of `n`. -/

namespace Sys2Proof.Machine

/-! ### A line as a delay -/

/-- What leaves, at STEP `n`, a line of `d` slots that held `z` and that `f` enters. -/
def delay {α : Type} (d : Nat) (z : α) (f : Nat → α) (n : Nat) : α := if n < d then z else f (n - d)

/-- What stands in that line before STEP `n`, newest first. -/
def lineAt {α : Type} (d : Nat) (z : α) (f : Nat → α) (n : Nat) : List α :=
  (List.range d).map fun k => if k < n then f (n - 1 - k) else z

theorem lineAt_zero {α : Type} (d : Nat) (z : α) (f : Nat → α) : lineAt d z f 0 = List.replicate d z := by
  simp [lineAt, List.map_const']

/-- One push moves the line to the next STEP and returns the delayed entry. -/
theorem push_lineAt {α : Type} (d : Nat) (z : α) (f : Nat → α) (n : Nat) :
    push (lineAt d z f n) (f n) = (delay d z f n, lineAt d z f (n + 1)) := by
  have hsplit : lineAt d z f (n + 1) ++ [delay d z f n] = f n :: lineAt d z f n := by
    have hlong : lineAt (d + 1) z f (n + 1) = lineAt d z f (n + 1) ++ [delay d z f n] := by
      have hlast : (if d < n + 1 then f (n + 1 - 1 - d) else z) = delay d z f n := by
        unfold delay
        by_cases h : n < d
        · rw [if_neg (by omega), if_pos h]
        · rw [if_pos (by omega), if_neg h, Nat.add_sub_cancel]
      simp only [lineAt, List.range_succ, List.map_append, List.map_singleton, hlast]
    have hhead : lineAt (d + 1) z f (n + 1) = f n :: lineAt d z f n := by
      have hshift : ∀ k, n + 1 - 1 - (k + 1) = n - 1 - k := fun k => by omega
      unfold lineAt
      rw [List.range_succ_eq_map, List.map_cons, List.map_map, if_pos n.succ_pos]
      refine congrArg₂ List.cons rfl (List.map_congr_left fun k _ => ?_)
      simp only [Function.comp_apply, Nat.succ_eq_add_one, hshift, Nat.add_lt_add_iff_right]
    rw [← hlong, hhead]
  have hboth := (push_split (lineAt d z f n) (f n)).trans hsplit.symm
  obtain ⟨hline, hout⟩ := List.append_inj' hboth rfl
  exact Prod.ext (List.singleton_inj.1 hout) hline

/-- A field that `z` has cleared is delayed like the entries. -/
theorem delay_map {α β : Type} (g : α → β) (d : Nat) (z : α) (f : Nat → α) (n : Nat) :
    g (delay d z f n) = delay d (g z) (fun k => g (f k)) n := by
  unfold delay
  split <;> rfl

/-- Two delays in a row are one. -/
theorem delay_delay {α : Type} (d e : Nat) (z : α) (f : Nat → α) (n : Nat) :
    delay d z (delay e z f) n = delay (e + d) z f n := by
  unfold delay
  by_cases hd : n < d
  · rw [if_pos hd, if_pos (by omega)]
  · rw [if_neg hd]
    by_cases he : n - d < e
    · rw [if_pos he, if_pos (by omega)]
    · rw [if_neg he, if_neg (by omega)]
      congr 1
      omega

/-- A valid entry that leaves a line has entered it. -/
theorem delay_of_valid {d : Nat} {f : Nat → Slot} {n : Nat} (h : (delay d Slot.zero f n).v = true) :
    d ≤ n ∧ delay d Slot.zero f n = f (n - d) := by
  unfold delay at h ⊢
  split at h
  · cases h
  next hn => exact ⟨Nat.le_of_not_lt hn, if_neg hn⟩

/-! ### The stages of a lane -/

section
variable (p : Params) (cfg : Cfg) (x : Nat → LaneInput)

/-- What leaves the MUL line at STEP `n`. -/
def mulOut (n : Nat) : MulSlot := delay cfg.latMul MulSlot.zero (fun k => mulEntry p (x k)) n

/-- What enters the ADD line. -/
def addIn (n : Nat) : Slot :=
  ⟨fadd p (mulOut p cfg x n).d (meetingAddend p (x n) (mulOut p cfg x n)), (mulOut p cfg x n).v⟩

def addOut (n : Nat) : Slot := delay cfg.latAdd Slot.zero (addIn p cfg x) n

/-- The accumulator before STEP `n`. -/
def accAt : Nat → F32
  | 0 => F32.posZero
  | n + 1 => if (addOut p cfg x n).v then fadd p (accAt n) (addOut p cfg x n).d else accAt n

/-- The counter before STEP `n`. -/
def cntAt : Nat → Nat
  | 0 => 0
  | n + 1 => if (addOut p cfg x n).v then min (cntAt n + 1) p.cntMax else cntAt n

def accIn (n : Nat) : Slot := ⟨accAt p cfg x (n + 1), (addOut p cfg x n).v⟩

def accOut (n : Nat) : Slot := delay cfg.latAcc Slot.zero (accIn p cfg x) n

def rndIn (n : Nat) : Slot := ⟨roundStage p cfg (accOut p cfg x n).d, (accOut p cfg x n).v⟩

def rndOut (n : Nat) : Slot := delay cfg.latRnd Slot.zero (rndIn p cfg x) n

def satIn (n : Nat) : Slot := ⟨satStage cfg (rndOut p cfg x n).d, (rndOut p cfg x n).v⟩

/-- What STEP `n` answers. -/
def satOut (n : Nat) : Slot := delay cfg.latSat Slot.zero (satIn p cfg x) n

/-- The lane before STEP `n`. -/
def laneAt (n : Nat) : Lane where
  acc := accAt p cfg x n
  cnt := cntAt p cfg x n
  mulLine := lineAt cfg.latMul MulSlot.zero (fun k => mulEntry p (x k)) n
  addLine := lineAt cfg.latAdd Slot.zero (addIn p cfg x) n
  accLine := lineAt cfg.latAcc Slot.zero (accIn p cfg x) n
  rndLine := lineAt cfg.latRnd Slot.zero (rndIn p cfg x) n
  satLine := lineAt cfg.latSat Slot.zero (satIn p cfg x) n

theorem laneAt_zero : laneAt p cfg x 0 = Lane.fresh cfg := by
  simp only [laneAt, lineAt_zero, accAt, cntAt, Lane.fresh]

/-- One cycle moves the lane to the next STEP, stage by stage through `push_lineAt`. -/
theorem laneStep_laneAt (n : Nat) :
    laneStep p cfg (x n) (laneAt p cfg x n) = (laneAt p cfg x (n + 1), satOut p cfg x n) := by
  have hmul : mulPush p (x n) (laneAt p cfg x n) = (mulOut p cfg x n, (laneAt p cfg x (n + 1)).mulLine) :=
    push_lineAt cfg.latMul MulSlot.zero (fun k => mulEntry p (x k)) n
  have hadd : addPush p (x n) (laneAt p cfg x n) = (addOut p cfg x n, (laneAt p cfg x (n + 1)).addLine) := by
    rw [addPush, hmul]
    exact push_lineAt cfg.latAdd Slot.zero (addIn p cfg x) n
  have haccNext : accNext p (x n) (laneAt p cfg x n) = accAt p cfg x (n + 1) := by
    rw [accNext, hadd]
    rfl
  have hacc : accPush p (x n) (laneAt p cfg x n) = (accOut p cfg x n, (laneAt p cfg x (n + 1)).accLine) := by
    rw [accPush, haccNext, hadd]
    exact push_lineAt cfg.latAcc Slot.zero (accIn p cfg x) n
  have hrnd : rndPush p cfg (x n) (laneAt p cfg x n) = (rndOut p cfg x n, (laneAt p cfg x (n + 1)).rndLine) := by
    rw [rndPush, hacc]
    exact push_lineAt cfg.latRnd Slot.zero (rndIn p cfg x) n
  have hsat : satPush p cfg (x n) (laneAt p cfg x n) = (satOut p cfg x n, (laneAt p cfg x (n + 1)).satLine) := by
    rw [satPush, hrnd]
    exact push_lineAt cfg.latSat Slot.zero (satIn p cfg x) n
  rw [laneStep_eq, hmul, hadd, haccNext, hacc, hrnd, hsat]
  rfl

/-- A run of cycles from STEP `s` on. -/
theorem laneRun_laneAt (s n : Nat) :
    laneRun p cfg ((List.range' s n).map x) (laneAt p cfg x s)
      = (laneAt p cfg x (s + n), (List.range' s n).map (satOut p cfg x)) := by
  induction n generalizing s with
  | zero => rfl
  | succ n ih =>
    rw [List.range'_succ, List.map_cons, laneRun_cons, laneStep_laneAt, ih, List.map_cons, Nat.add_assoc, Nat.add_comm 1 n]

/-- A run of cycles of a fresh lane. -/
theorem laneRun_fresh (n : Nat) :
    laneRun p cfg ((List.range n).map x) (Lane.fresh cfg)
      = (laneAt p cfg x n, (List.range n).map (satOut p cfg x)) := by
  rw [← laneAt_zero p cfg x, List.range_eq_range', laneRun_laneAt, Nat.zero_add]

/-! ### Validity along the stages (R297) -/

theorem addIn_v (n : Nat) : (addIn p cfg x n).v = delay cfg.latMul false (fun k => (x k).iv) n :=
  delay_map MulSlot.v _ _ _ n

theorem addOut_v (n : Nat) : (addOut p cfg x n).v = delay (cfg.latMul + cfg.latAdd) false (fun k => (x k).iv) n := by
  rw [addOut, delay_map Slot.v, funext (addIn_v p cfg x)]
  exact delay_delay ..

theorem accIn_v (n : Nat) : (accIn p cfg x n).v = delay (cfg.latMul + cfg.latAdd) false (fun k => (x k).iv) n :=
  addOut_v p cfg x n

theorem rndIn_v (n : Nat) :
    (rndIn p cfg x n).v = delay (cfg.latMul + cfg.latAdd + cfg.latAcc) false (fun k => (x k).iv) n := by
  refine (delay_map Slot.v _ _ _ n).trans ?_
  rw [funext (accIn_v p cfg x)]
  exact delay_delay ..

theorem satIn_v (n : Nat) :
    (satIn p cfg x n).v = delay (cfg.latMul + cfg.latAdd + cfg.latAcc + cfg.latRnd) false (fun k => (x k).iv) n := by
  refine (delay_map Slot.v _ _ _ n).trans ?_
  rw [funext (rndIn_v p cfg x)]
  exact delay_delay ..

theorem satOut_v (n : Nat) : (satOut p cfg x n).v = delay cfg.totalLat false (fun k => (x k).iv) n := by
  rw [satOut, delay_map Slot.v, funext (satIn_v p cfg x)]
  exact delay_delay ..

/-- A valid output is a copy of the accumulator, as many STEPs old as the last three lines are long, through rounding and
saturation. -/
theorem satOut_d {n : Nat} (h : (satOut p cfg x n).v = true) :
    cfg.latAcc + cfg.latRnd + cfg.latSat ≤ n
      ∧ (satOut p cfg x n).d = postStages p cfg (accAt p cfg x (n + 1 - (cfg.latAcc + cfg.latRnd + cfg.latSat))) := by
  obtain ⟨hs, hsat⟩ := delay_of_valid h
  have hvr : (rndOut p cfg x (n - cfg.latSat)).v = true := by rwa [satOut, hsat] at h
  obtain ⟨hr, hrnd⟩ := delay_of_valid hvr
  have hva : (accOut p cfg x (n - cfg.latSat - cfg.latRnd)).v = true := by rwa [rndOut, hrnd] at hvr
  obtain ⟨ha, hacc⟩ := delay_of_valid hva
  refine ⟨by omega, ?_⟩
  have hindex : n - cfg.latSat - cfg.latRnd - cfg.latAcc + 1 = n + 1 - (cfg.latAcc + cfg.latRnd + cfg.latSat) := by omega
  calc (satOut p cfg x n).d
      = satStage cfg (rndOut p cfg x (n - cfg.latSat)).d := by rw [satOut, hsat]; rfl
    _ = satStage cfg (roundStage p cfg (accOut p cfg x (n - cfg.latSat - cfg.latRnd)).d) := by rw [rndOut, hrnd]; rfl
    _ = satStage cfg (roundStage p cfg (accAt p cfg x (n - cfg.latSat - cfg.latRnd - cfg.latAcc + 1))) := by
        rw [accOut, hacc]; rfl
    _ = _ := by rw [hindex]; rfl

/-- A valid entry at the accumulator is the product of its own STEP with the addend of the alignment (R288). -/
theorem addOut_d {n : Nat} (h : (addOut p cfg x n).v = true) :
    cfg.latAdd ≤ n ∧ cfg.latMul ≤ n - cfg.latAdd
      ∧ (addOut p cfg x n).d = fadd p
          (fmul p (x (n - cfg.latAdd - cfg.latMul)).a (x (n - cfg.latAdd - cfg.latMul)).b)
          (if p.addendAlign = .withProduct then (x (n - cfg.latAdd - cfg.latMul)).addend
            else (x (n - cfg.latAdd)).addend) := by
  obtain ⟨ha, hadd⟩ := delay_of_valid h
  have hvm : (mulOut p cfg x (n - cfg.latAdd)).v = true := by rwa [addOut, hadd] at h
  have hm : ¬ n - cfg.latAdd < cfg.latMul := fun hlt => by
    rw [mulOut, delay, if_pos hlt] at hvm
    cases hvm
  have hmul : mulOut p cfg x (n - cfg.latAdd) = mulEntry p (x (n - cfg.latAdd - cfg.latMul)) := if_neg hm
  refine ⟨ha, by omega, ?_⟩
  rw [addOut, hadd, addIn, hmul, meetingAddend_eq, mulEntry_eq]
  cases p.addendAlign <;> rfl

end

/-! ### The timing law (R297) -/

section
variable (p : Params) (cfg : Cfg) (xs : List LaneInput)

/-- The inputs of a list of STEPs, by number. -/
def inputAt (xs : List LaneInput) (n : Nat) : LaneInput := xs.getD n default

theorem map_inputAt : (List.range xs.length).map (inputAt xs) = xs := by
  refine List.ext_getElem (by simp) fun n _ hn => ?_
  rw [List.getElem_map, List.getElem_range]
  exact List.getD_eq_getElem _ _ hn

theorem addOut_v_eq_validBefore (n : Nat) :
    (addOut p cfg (inputAt xs) n).v = validBefore xs (cfg.latMul + cfg.latAdd) n := addOut_v ..

theorem accAfter_succ (n : Nat) :
    accAfter p cfg xs (n + 1) =
      if validBefore xs (cfg.latMul + cfg.latAdd) n then fadd p (accAfter p cfg xs n) (contribution p cfg xs n)
      else accAfter p cfg xs n := by
  simp only [accAfter, List.range_succ, List.foldl_append, List.foldl_cons, List.foldl_nil]

/-- The accumulator is the fold of the contributions. -/
theorem accAt_eq_accAfter (n : Nat) : accAt p cfg (inputAt xs) n = accAfter p cfg xs n := by
  induction n with
  | zero => rfl
  | succ n ih =>
    rw [accAt, accAfter_succ, ih, ← addOut_v_eq_validBefore p]
    split
    next hv =>
      obtain ⟨-, -, hd⟩ := addOut_d p cfg (inputAt xs) hv
      rw [hd]
      rfl
    next => rfl

/-- The counter counts the contributions up to its maximum. -/
theorem cntAt_eq (x : Nat → LaneInput) (n : Nat) :
    cntAt p cfg x n = min ((List.range n).countP fun k => (addOut p cfg x k).v) p.cntMax := by
  induction n with
  | zero => simp [cntAt]
  | succ n ih =>
    rw [cntAt, ih, List.range_succ, List.countP_append, List.countP_singleton]
    cases (addOut p cfg x n).v with
    | false => simp
    | true => simp only [if_true]; omega

end

/-- Settles O45: RESET makes the lane fresh, the STEPs run it (`stepCommands_eq_laneRun`), and the run of a fresh lane is written
down in `laneRun_fresh`. -/
theorem theTimingLaw : Obligations.TheTimingLaw := by
  unfold Obligations.TheTimingLaw
  intro s t r c xs hs ht hr hc
  have hwf : t.wf s.params := hs.tile_wf ht
  obtain ⟨u, t', hrun, ht', hcycle, hlane, -⟩ := stepCommands_eq_laneRun xs
    (s := returnOk (s.withTile (some t.cleared))) rfl (by simp [hs.lanes_length ht]) hr hc
  have hfresh : laneRun s.params t.cfg xs (Lane.fresh t.cfg)
      = (laneAt s.params t.cfg (inputAt xs) xs.length,
          (List.range xs.length).map (satOut s.params t.cfg (inputAt xs))) := by
    have h := laneRun_fresh s.params t.cfg (inputAt xs) xs.length
    rwa [map_inputAt] at h
  have hcleared : laneRun s.params t.cleared.cfg xs (t.cleared.lane r c) = _ :=
    (congrArg _ (Tile.cleared_lane hwf r c)).trans hfresh
  rw [show (returnOk (s.withTile (some t.cleared))).params = s.params from rfl, hcleared] at hrun hlane
  refine ⟨_, u, t', _, exec_reset_of_live ht, hrun, by simp, fun n hn => ?output, ht', ?cycle, ?acc, ?cnt⟩
  case output =>
    refine ⟨satOut s.params t.cfg (inputAt xs) n, by simp [hn], satOut_v .., fun hv => ?_⟩
    obtain ⟨-, hd⟩ := satOut_d s.params t.cfg (inputAt xs) hv
    rw [hd, accAt_eq_accAfter]
  case cycle => rw [hcycle, Tile.cleared_cycle, Nat.zero_add]
  case acc =>
    rw [hlane]
    exact accAt_eq_accAfter ..
  case cnt =>
    rw [hlane]
    refine (cntAt_eq s.params t.cfg (inputAt xs) xs.length).trans ?_
    simp only [addOut_v_eq_validBefore]

end Sys2Proof.Machine
end

section
/-! SUPPORT. GEMM's checks and its run lane by lane (spec/46_tile_gemm.md R320 to R332; spec/20_memory.md R85, R88): the decided
checks as the statements' predicates, and every lane of a run of taps as a run of that lane alone. -/

namespace Sys2Proof.Machine

/-! ### The checks (R85, R88, R321, R361) -/

theorem gemmArrays_of_offers {a : Args} {g : GemmArrays} (h : a.offers g) : a.gemmArrays = some g := by
  obtain ⟨hlhs, hrhs, hbias, hdst, hlda, hldb, hldd⟩ := h
  rw [Args.gemmArrays, hlhs, hrhs, hdst, hbias, hlda, hldb, hldd]

theorem gemmArrays_of_absent {a : Args} (h : a.lhs = none ∨ a.rhs = none ∨ a.dst = none) : a.gemmArrays = none := by
  unfold Args.gemmArrays
  split
  next hlhs hrhs hdst => simp [hlhs, hrhs, hdst] at h
  next => rfl

/-- The greatest index that a strided array uses bounds all of them. -/
theorem covers_iff {r : ArrayRef} {rows cols stride : Nat} (hr : 1 ≤ rows) (hc : 1 ≤ cols) :
    covers r rows cols stride = true ↔ ∀ i k, i < rows → k < cols → i * stride + k < r.len := by
  rw [covers, decide_eq_true_iff]
  constructor
  · intro h i k hi hk
    have hrow : i * stride ≤ (rows - 1) * stride := Nat.mul_le_mul_right _ (by omega)
    omega
  · intro h
    have hlast := h (rows - 1) (cols - 1) (by omega) (by omega)
    omega

theorem longEnough_iff {p : Params} {t : Tile} (h : t.wf p) (g : GemmArrays) :
    longEnough g t = true ↔ g.containIndices t := by
  obtain ⟨hr, hc, hd, -⟩ := h
  have hbias : (match g.bias with | some b => covers b 1 t.cols 0 | none => true) = true
      ↔ ∀ b, g.bias = some b → ∀ j, j < t.cols → j < b.len := by
    cases g.bias with
    | none => simp
    | some b =>
      simp only [Option.some.injEq, forall_eq', covers_iff le_rfl hc]
      exact ⟨fun h j hj => by simpa using h 0 j (by omega) hj, fun h i k _ hk => by simpa using h k hk⟩
  rw [longEnough, Bool.and_eq_true, Bool.and_eq_true, Bool.and_eq_true, covers_iff hr hd, covers_iff hd hc,
    covers_iff hr hc]
  refine (and_congr_right fun _ => hbias).trans ?_
  rw [GemmArrays.containIndices]
  tauto

theorem holds_iff (r : ArrayRef) (e : Nat) : r.holds e = true ↔ r.owns e := by
  rw [ArrayRef.holds, Bool.and_eq_true, decide_eq_true_iff, decide_eq_true_iff, ArrayRef.owns]

theorem overlaps_eq_false_iff (g : GemmArrays) (t : Tile) : overlaps g t = false ↔ g.separate t := by
  have hlane : ∀ e, (g.lhs.holds e || g.rhs.holds e || (match g.bias with | some b => b.holds e | none => false)) = false
      ↔ ¬ g.lhs.owns e ∧ ¬ g.rhs.owns e ∧ ∀ b, g.bias = some b → ¬ b.owns e := by
    intro e
    simp only [← holds_iff, Bool.or_eq_false_iff, Bool.not_eq_true, and_assoc]
    cases g.bias <;> simp
  rw [overlaps, List.any_eq_false]
  refine ⟨fun h i j hi hj => (hlane _).1 (Bool.not_eq_true _ ▸ h ⟨.main, 0, i, j⟩ (mem_gridPass.2 ⟨rfl, rfl, hi, hj⟩)),
    fun h q hq => ?_⟩
  obtain ⟨-, -, hi, hj⟩ := mem_gridPass.1 hq
  exact Bool.not_eq_true _ ▸ (hlane _).2 (h q.i q.j hi hj)

theorem strideTooSmall_eq_false_iff (g : GemmArrays) (t : Tile) : strideTooSmall g t = false ↔ g.stridesLegal t := by
  simp [strideTooSmall, GemmArrays.stridesLegal, and_assoc]

/-! ### What GEMM answers -/

/-- The state that a GEMM with good arrays and legal strides leaves. -/
def gemmDone (s : State) (g : GemmArrays) (t : Tile) : State :=
  returnOk ((s.withTile (some { gemmRun s.params s.mem g t with seq := none })).withMem
    (writeBack g (gemmRun s.params s.mem g t) s.mem))

section
variable {s : State} {t : Tile} {g : GemmArrays}

theorem exec_gemm_of_absent (ht : s.tile = some t) (h : s.args.lhs = none ∨ s.args.rhs = none ∨ s.args.dst = none) :
    exec .gemm s = .refused .arrayAbsent := by
  show execGemm s = _
  unfold execGemm
  rw [ht]
  dsimp only
  rw [gemmArrays_of_absent h]

/-- GEMM with its arrays on the port is its checks, in the order of R361. -/
theorem exec_gemm_of_offers (ht : s.tile = some t) (ho : s.args.offers g) :
    exec .gemm s =
      if longEnough g t = false then .refused .arrayTooShort
      else if overlaps g t = true then .refused .arrayOverlap
      else if strideTooSmall g t = true then .next (returnErr s .bounds)
      else .next (gemmDone s g t) := by
  show execGemm s = _
  unfold execGemm
  rw [ht]
  dsimp only
  rw [gemmArrays_of_offers ho]
  rfl

theorem exec_gemm_of_badStrides (hwf : t.wf s.params) (ht : s.tile = some t) (ho : s.args.offers g)
    (hc : g.containIndices t) (hs : g.separate t) (hl : ¬ g.stridesLegal t) :
    exec .gemm s = .next (returnErr s .bounds) := by
  rw [← longEnough_iff hwf] at hc
  rw [← overlaps_eq_false_iff] at hs
  rw [← strideTooSmall_eq_false_iff, Bool.not_eq_false] at hl
  rw [exec_gemm_of_offers ht ho, hc, hs, hl]
  rfl

theorem exec_gemm_of_legal (hwf : t.wf s.params) (ht : s.tile = some t) (ho : s.args.offers g)
    (hc : g.containIndices t) (hs : g.separate t) (hl : g.stridesLegal t) : exec .gemm s = .next (gemmDone s g t) := by
  rw [← longEnough_iff hwf] at hc
  rw [← overlaps_eq_false_iff] at hs
  rw [← strideTooSmall_eq_false_iff] at hl
  rw [exec_gemm_of_offers ht ho, hc, hs, hl]
  rfl

end

/-- Settles O49: the refusals' checks pass, the stride check does not. -/
theorem gemmChecksTheStridesFirst : Obligations.GemmChecksTheStridesFirst := by
  unfold Obligations.GemmChecksTheStridesFirst
  exact fun s t g hs ht ho hc hsep hl => exec_gemm_of_badStrides (hs.tile_wf ht) ht ho hc hsep hl

/-- Settles O50: the three refusals in their order. -/
theorem gemmRefusesBadArrays : Obligations.GemmRefusesBadArrays := by
  unfold Obligations.GemmRefusesBadArrays
  refine fun s t hs ht => ⟨exec_gemm_of_absent ht, fun g ho => ⟨fun hc => ?short, fun hc hsep => ?overlap⟩⟩
  case short =>
    rw [← longEnough_iff (hs.tile_wf ht), Bool.not_eq_true] at hc
    rw [exec_gemm_of_offers ht ho, hc]
    rfl
  case overlap =>
    rw [← longEnough_iff (hs.tile_wf ht)] at hc
    rw [← overlaps_eq_false_iff, Bool.not_eq_false] at hsep
    rw [exec_gemm_of_offers ht ho, hc, hsep]
    rfl

/-! ### A run of taps, lane by lane (R326, R328) -/

/-- The last valid data of a list of outputs; `l` where there is none. -/
def lastValid (l : Option F32) (outs : List Slot) : Option F32 :=
  outs.foldl (fun l o => if o.v then some o.d else l) l

/-- The taps of one lane. -/
def lanePart (i j : Nat) (qs : List SeqPos) : List SeqPos := qs.filter fun q => decide (q.i = i ∧ q.j = j)

theorem lanePart_cons_of_eq {i j : Nat} {q : SeqPos} (h : q.i = i ∧ q.j = j) (qs : List SeqPos) :
    lanePart i j (q :: qs) = q :: lanePart i j qs := List.filter_cons_of_pos (by simpa using h)

theorem lanePart_cons_of_ne {i j : Nat} {q : SeqPos} (h : ¬ (q.i = i ∧ q.j = j)) (qs : List SeqPos) :
    lanePart i j (q :: qs) = lanePart i j qs := List.filter_cons_of_neg (by simpa using h)

theorem gemmTap_lane {t : Tile} {q : SeqPos} {i j : Nat} (p : Params) (m : Memory) (g : GemmArrays)
    (hlen : t.lanes.length = t.rows * t.cols) (hi : q.i < t.rows) (hj : q.j < t.cols) (hj' : j < t.cols) :
    (gemmTap p m g t q).lane i j =
      if i = q.i ∧ j = q.j then (laneStep p t.cfg (tapInput m g q) (t.lane q.i q.j)).1 else t.lane i j :=
  tileStep_lane (tapInput m g q) hlen hi hj hj'

/-- The latch entry of a lane after a tap: replaced by a valid output of that lane only (R328). -/
theorem gemmTap_latch_getD {t : Tile} {q : SeqPos} {i j : Nat} (p : Params) (m : Memory) (g : GemmArrays)
    (hlen : t.latch.length = t.rows * t.cols) (hi : q.i < t.rows) (hj : q.j < t.cols) (hj' : j < t.cols) :
    (gemmTap p m g t q).latch.getD (i * t.cols + j) none =
      if i = q.i ∧ j = q.j then lastValid (t.latch.getD (i * t.cols + j) none)
        [(laneStep p t.cfg (tapInput m g q) (t.lane q.i q.j)).2]
      else t.latch.getD (i * t.cols + j) none := by
  have hindex : q.i * t.cols + q.j = i * t.cols + j ↔ i = q.i ∧ j = q.j :=
    ⟨fun h => (laneIndex_inj hj hj' h).imp Eq.symm Eq.symm, by rintro ⟨rfl, rfl⟩; rfl⟩
  rw [gemmTap_latch, tileStep_out, lastValid, List.foldl_cons, List.foldl_nil]
  cases (laneStep p t.cfg (tapInput m g q) (t.lane q.i q.j)).2.v with
  | false => simp
  | true =>
    simp only [if_true, List.getD_eq_getElem?_getD, List.getElem?_set, hindex]
    split
    · rw [if_pos (hlen ▸ laneIndex_lt hi hj), Option.getD_some]
    · rfl

theorem gemmTap_latch_length (p : Params) (m : Memory) (g : GemmArrays) (t : Tile) (q : SeqPos) :
    (gemmTap p m g t q).latch.length = t.latch.length := by
  rw [gemmTap_latch]
  split <;> simp

/-- A lane after a run of taps has run its own taps, and its latch holds its last valid output. -/
theorem foldl_gemmTap_lane (p : Params) (m : Memory) (g : GemmArrays) {i j : Nat} (qs : List SeqPos) {t : Tile}
    (hlanes : t.lanes.length = t.rows * t.cols) (hlatch : t.latch.length = t.rows * t.cols) (hj : j < t.cols)
    (hqs : ∀ q ∈ qs, q.i < t.rows ∧ q.j < t.cols) :
    (qs.foldl (gemmTap p m g) t).lane i j
        = (laneRun p t.cfg ((lanePart i j qs).map (tapInput m g)) (t.lane i j)).1
      ∧ (qs.foldl (gemmTap p m g) t).latch.getD (i * t.cols + j) none
        = lastValid (t.latch.getD (i * t.cols + j) none)
            (laneRun p t.cfg ((lanePart i j qs).map (tapInput m g)) (t.lane i j)).2 := by
  induction qs generalizing t with
  | nil => exact ⟨rfl, rfl⟩
  | cons q qs ih =>
    obtain ⟨hqi, hqj⟩ := hqs q List.mem_cons_self
    obtain ⟨hlane, hlast⟩ := ih (t := gemmTap p m g t q) (by simpa using hlanes)
      (by rw [gemmTap_latch_length]; exact hlatch) hj fun q' hq' => hqs q' (List.mem_cons_of_mem q hq')
    rw [gemmTap_cols] at hlast
    rw [gemmTap_lane p m g hlanes hqi hqj hj, gemmTap_cfg] at hlane hlast
    rw [gemmTap_latch_getD p m g hlatch hqi hqj hj] at hlast
    rw [List.foldl_cons, hlane, hlast]
    by_cases h : q.i = i ∧ q.j = j
    · obtain ⟨rfl, rfl⟩ := h
      rw [lanePart_cons_of_eq ⟨rfl, rfl⟩, List.map_cons, laneRun_cons, if_pos ⟨rfl, rfl⟩, if_pos ⟨rfl, rfl⟩]
      exact ⟨rfl, rfl⟩
    · have h' : ¬ (i = q.i ∧ j = q.j) := fun e => h (e.imp Eq.symm Eq.symm)
      rw [lanePart_cons_of_ne h, if_neg h', if_neg h']
      exact ⟨rfl, rfl⟩

/-! ### The inputs of one lane (R324 to R327) -/

/-- The inputs of lane (i, j) in the order of its taps: K operand pairs, then bubbles. -/
def laneInputs (m : Memory) (g : GemmArrays) (depth i j n : Nat) : LaneInput :=
  if n < depth then tapInput m g ⟨.main, n, i, j⟩ else tapInput m g ⟨.drain, n - depth, i, j⟩

theorem laneInputs_main (m : Memory) (g : GemmArrays) (i j : Nat) {depth n : Nat} (h : n < depth) :
    laneInputs m g depth i j n = tapInput m g ⟨.main, n, i, j⟩ := if_pos h

theorem laneInputs_drain (m : Memory) (g : GemmArrays) (i j : Nat) {depth n : Nat} (h : depth ≤ n) :
    laneInputs m g depth i j n = ⟨false, F32.posZero, F32.posZero, F32.posZero⟩ := if_neg (Nat.not_lt.2 h)

theorem laneInputs_iv (m : Memory) (g : GemmArrays) (depth i j n : Nat) :
    (laneInputs m g depth i j n).iv = decide (n < depth) := by
  by_cases h : n < depth
  · rw [laneInputs_main m g i j h, decide_eq_true h]
    rfl
  · rw [laneInputs_drain m g i j (Nat.not_lt.1 h), decide_eq_false h]

/-- The taps of a lane bring its inputs. -/
theorem map_tapInput_lanePart (m : Memory) (g : GemmArrays) (depth lat : Nat) {rows cols i j : Nat} (hi : i < rows)
    (hj : j < cols) :
    (lanePart i j (gemmTaps rows cols depth lat)).map (tapInput m g)
      = (List.range (depth + (lat + 1))).map (laneInputs m g depth i j) := by
  have hrange : List.range (depth + (lat + 1)) = List.range depth ++ (List.range (lat + 1)).map (depth + ·) :=
    List.range_add ..
  rw [lanePart, gemmTaps_filter_lane depth lat hi hj, hrange, List.map_append, List.map_append, List.map_map,
    List.map_map, List.map_map]
  congr 1
  · exact List.map_congr_left fun n hn => (laneInputs_main m g i j (List.mem_range.1 hn)).symm
  · exact List.map_congr_left fun n _ => (laneInputs_drain m g i j (Nat.le_add_right depth n)).symm

theorem mem_gemmTaps {rows cols depth lat : Nat} {q : SeqPos} (h : q ∈ gemmTaps rows cols depth lat) :
    q.i < rows ∧ q.j < cols := by
  simp only [gemmTaps, mainTaps, drainTaps, List.mem_append, List.mem_flatMap, mem_gridPass] at h
  obtain ⟨_, -, -, -, hi, hj⟩ | ⟨_, -, -, -, hi, hj⟩ := h <;> exact ⟨hi, hj⟩

section
variable {p : Params} {t : Tile} {i j : Nat}

/-- How many STEPs a GEMM makes on each lane (R327). -/
def Tile.laneSteps (t : Tile) : Nat := t.depth + (t.cfg.totalLat + 1)

/-- Every lane after a GEMM has run its inputs from the fresh lane (R322, R326). -/
theorem gemmRun_lane (h : t.wf p) (m : Memory) (g : GemmArrays) (hi : i < t.rows) (hj : j < t.cols) :
    (gemmRun p m g t).lane i j = laneAt p t.cfg (laneInputs m g t.depth i j) t.laneSteps
      ∧ (gemmRun p m g t).latch.getD (i * t.cols + j) none
        = lastValid none ((List.range t.laneSteps).map (satOut p t.cfg (laneInputs m g t.depth i j))) := by
  obtain ⟨-, -, -, -, hlanes, -, -⟩ := id h
  have hstart : (gemmStart t).lane i j = Lane.fresh t.cfg := Tile.cleared_lane h i j
  have hempty : (gemmStart t).latch.getD (i * t.cols + j) none = none := by
    rw [gemmStart_latch]
    exact List.getElem?_getD_replicate_default_eq ..
  have hrun := laneRun_fresh p t.cfg (laneInputs m g t.depth i j) t.laneSteps
  obtain ⟨hlane, hlatch⟩ := foldl_gemmTap_lane p m g (t := gemmStart t) (i := i)
    (gemmTaps t.rows t.cols t.depth t.cfg.totalLat) (by simpa using hlanes) (by simp) hj fun q hq => mem_gemmTaps hq
  rw [map_tapInput_lanePart m g t.depth t.cfg.totalLat hi hj, hstart, gemmStart_cfg] at hlane hlatch
  rw [gemmStart_cols, hempty] at hlatch
  exact ⟨hlane.trans (congrArg Prod.fst hrun), hlatch.trans (congrArg (lastValid none ∘ Prod.snd) hrun)⟩

end

end Sys2Proof.Machine
end

section
/-! SUPPORT. What a GEMM leaves (spec/46_tile_gemm.md R328 to R332): each lane, its last valid output and the elements of DST,
read off the written-down run of a lane that takes K operand pairs and then bubbles. -/

namespace Sys2Proof.Machine

/-! ### A lane that takes K valid inputs and then bubbles -/

section
variable (p : Params) (cfg : Cfg) {x : Nat → LaneInput} {K : Nat}

/-- Such a validity bit, delayed, is 1 at K STEPs in a row. -/
theorem delay_iv (h : ∀ n, (x n).iv = decide (n < K)) (d n : Nat) :
    delay d false (fun k => (x k).iv) n = decide (d ≤ n ∧ n < d + K) := by
  unfold delay
  split
  next hlt => exact (decide_eq_false (by omega)).symm
  next hge => exact (h _).trans (decide_eq_decide.2 (by omega))

/-- A line that the last valid entry has left holds bubbles only. -/
theorem lineAt_drained {α : Type} {v : α → Bool} {z : α} {f : Nat → α} {d e N : Nat}
    (h : ∀ n, (x n).iv = decide (n < K)) (hz : v z = false) (hf : ∀ n, v (f n) = delay e false (fun k => (x k).iv) n)
    (hN : K + e + d ≤ N) : ∀ y ∈ lineAt d z f N, v y = false := by
  intro y hy
  obtain ⟨k, hk, rfl⟩ := List.mem_map.1 hy
  have hk' := List.mem_range.1 hk
  split
  · rw [hf, delay_iv h]
    exact decide_eq_false (by omega)
  · exact hz

/-- `totalLat` STEPs after the last valid input no slot of the lane is valid (R331 (c)). -/
theorem laneAt_drained (h : ∀ n, (x n).iv = decide (n < K)) {N : Nat} (hN : K + cfg.totalLat ≤ N) (st : Stage) :
    ∀ e ∈ (laneAt p cfg x N).line st, e.v = false := by
  unfold Cfg.totalLat at hN
  cases st with
  | mul =>
    intro e he
    obtain ⟨y, hy, rfl⟩ := List.mem_map.1 he
    have hin : ∀ n, (mulEntry p (x n)).v = delay 0 false (fun k => (x k).iv) n := fun n => rfl
    exact lineAt_drained (v := MulSlot.v) h rfl hin (by omega) y hy
  | add => exact lineAt_drained h rfl (addIn_v p cfg x) (by omega)
  | acc => exact lineAt_drained h rfl (accIn_v p cfg x) (by omega)
  | rnd => exact lineAt_drained h rfl (rndIn_v p cfg x) (by omega)
  | sat => exact lineAt_drained h rfl (satIn_v p cfg x) (by omega)

theorem cntAt_of_burst (h : ∀ n, (x n).iv = decide (n < K)) (N : Nat) :
    cntAt p cfg x N = min (min (N - (cfg.latMul + cfg.latAdd)) K) p.cntMax := by
  induction N with
  | zero => simp [cntAt]
  | succ n ih =>
    rw [cntAt, ih, addOut_v, delay_iv h]
    by_cases hv : cfg.latMul + cfg.latAdd ≤ n ∧ n < cfg.latMul + cfg.latAdd + K
    · rw [if_pos (decide_eq_true hv)]
      omega
    · rw [if_neg (by simpa using hv)]
      omega

/-- The accumulator adds up the contributions that have come out of the add stage, in order. -/
theorem accAt_of_burst (h : ∀ n, (x n).iv = decide (n < K)) (N : Nat) :
    accAt p cfg x N = (List.range (min (N - (cfg.latMul + cfg.latAdd)) K)).foldl
      (fun acc u => fadd p acc (addOut p cfg x (u + (cfg.latMul + cfg.latAdd))).d) F32.posZero := by
  induction N with
  | zero => simp [accAt]
  | succ n ih =>
    rw [accAt, ih, addOut_v, delay_iv h]
    by_cases hv : cfg.latMul + cfg.latAdd ≤ n ∧ n < cfg.latMul + cfg.latAdd + K
    · have hcount : min (n + 1 - (cfg.latMul + cfg.latAdd)) K = min (n - (cfg.latMul + cfg.latAdd)) K + 1 := by omega
      have hindex : min (n - (cfg.latMul + cfg.latAdd)) K + (cfg.latMul + cfg.latAdd) = n := by omega
      rw [if_pos (decide_eq_true hv), hcount, List.range_succ, List.foldl_append, List.foldl_cons, List.foldl_nil, hindex]
    · have hcount : min (n + 1 - (cfg.latMul + cfg.latAdd)) K = min (n - (cfg.latMul + cfg.latAdd)) K := by omega
      rw [if_neg (by simpa using hv), hcount]

/-- The last valid element of a list of outputs by number. -/
theorem lastValid_range {f : Nat → Slot} {n N : Nat} (l : Option F32) (hn : n < N) (hv : (f n).v = true)
    (hlater : ∀ k, n < k → k < N → (f k).v = false) : lastValid l ((List.range N).map f) = some (f n).d := by
  induction N with
  | zero => omega
  | succ N ih =>
    rw [lastValid, List.range_succ, List.map_append, List.foldl_append]
    by_cases h : n = N
    · subst h
      exact if_pos hv
    · have hfalse : (f N).v = false := hlater N (by omega) N.lt_succ_self
      refine Eq.trans (if_neg (by simp [hfalse])) ?_
      exact ih (by omega) fun k hk hk' => hlater k hk (by omega)

/-- The last valid output of such a lane is its final accumulator through rounding and saturation (R331 (d)). -/
theorem lastValid_satOut (h : ∀ n, (x n).iv = decide (n < K)) (hK : 1 ≤ K) {N : Nat} (hN : K + cfg.totalLat ≤ N) :
    lastValid none ((List.range N).map (satOut p cfg x)) = some (postStages p cfg (accAt p cfg x N)) := by
  have hv : ∀ n, (satOut p cfg x n).v = decide (cfg.totalLat ≤ n ∧ n < cfg.totalLat + K) := fun n => by
    rw [satOut_v, delay_iv h]
  have hlast : (satOut p cfg x (cfg.totalLat + K - 1)).v = true := by
    rw [hv]
    exact decide_eq_true (by omega)
  obtain ⟨-, hd⟩ := satOut_d p cfg x hlast
  have hacc : accAt p cfg x (cfg.totalLat + K - 1 + 1 - (cfg.latAcc + cfg.latRnd + cfg.latSat)) = accAt p cfg x N := by
    rw [accAt_of_burst p cfg h, accAt_of_burst p cfg h N]
    unfold Cfg.totalLat at hN ⊢
    congr 2
    omega
  rw [lastValid_range none (by omega) hlast fun k hk _ => by
    rw [hv]
    exact decide_eq_false (by omega)]
  rw [hd, hacc]

end

/-! ### The lane of a GEMM -/

theorem laneInputs_addend (m : Memory) (g : GemmArrays) {depth : Nat} (hd : 1 ≤ depth) (i j n : Nat) :
    (laneInputs m g depth i j n).addend = if n = 0 then biasElem m g j else F32.posZero := by
  by_cases h : n < depth
  · rw [laneInputs_main m g i j h]
    unfold biasElem tapInput
    cases g.bias with
    | none => simp
    | some b => rfl
  · rw [laneInputs_drain m g i j (Nat.not_lt.1 h), if_neg (by omega)]

section
variable {p : Params} {t : Tile} {i j : Nat}

/-- The accumulator of a lane after its STEPs is the sum of R331. -/
theorem accAt_laneInputs (m : Memory) (g : GemmArrays) (hd : 1 ≤ t.depth) {N : Nat} (hN : t.depth + t.cfg.totalLat ≤ N) :
    accAt p t.cfg (laneInputs m g t.depth i j) N = gemmSum p m g t i j := by
  unfold Cfg.totalLat at hN
  have hcount : min (N - (t.cfg.latMul + t.cfg.latAdd)) t.depth = t.depth := by omega
  rw [accAt_of_burst p t.cfg (laneInputs_iv m g t.depth i j), hcount, gemmSum]
  refine List.foldl_ext _ _ _ fun acc k hk => congrArg (fadd p acc) ?_
  have hk' := List.mem_range.1 hk
  have hv : (addOut p t.cfg (laneInputs m g t.depth i j) (k + (t.cfg.latMul + t.cfg.latAdd))).v = true := by
    rw [addOut_v, delay_iv (laneInputs_iv m g t.depth i j)]
    exact decide_eq_true (by omega)
  obtain ⟨-, -, hterm⟩ := addOut_d p t.cfg _ hv
  have hown : k + (t.cfg.latMul + t.cfg.latAdd) - t.cfg.latAdd - t.cfg.latMul = k := by omega
  have hmeet : k + (t.cfg.latMul + t.cfg.latAdd) - t.cfg.latAdd = k + t.cfg.latMul := by omega
  rw [hterm, hown, hmeet, laneInputs_addend m g hd, laneInputs_addend m g hd, laneInputs_main m g i j hk']
  refine congrArg (fadd p (fmul p _ _)) ?_
  by_cases hp : p.addendAlign = .withProduct <;> by_cases hk0 : k = 0 <;> simp [hp, hk0]

/-- Lane (i, j) after a GEMM: its sum, the count of its contributions, no valid slot. -/
theorem gemmRun_lane_post (h : t.wf p) (m : Memory) (g : GemmArrays) (hi : i < t.rows) (hj : j < t.cols) :
    ((gemmRun p m g t).lane i j).acc = gemmSum p m g t i j
      ∧ ((gemmRun p m g t).lane i j).cnt = min t.depth p.cntMax
      ∧ (∀ st, ∀ e ∈ ((gemmRun p m g t).lane i j).line st, e.v = false)
      ∧ lastOutput (gemmRun p m g t) i j = postStages p t.cfg (gemmSum p m g t i j) := by
  obtain ⟨-, -, hd, -⟩ := id h
  obtain ⟨hlane, hlatch⟩ := gemmRun_lane h m g hi hj
  have hiv := laneInputs_iv m g t.depth i j
  have hN : t.depth + t.cfg.totalLat ≤ t.laneSteps := by unfold Tile.laneSteps; omega
  obtain ⟨-, hcols, -⟩ := gemmRun_sameShape p m g t
  rw [hlane]
  refine ⟨accAt_laneInputs m g hd hN, ?_, laneAt_drained p t.cfg hiv hN, ?_⟩
  · refine (cntAt_of_burst p t.cfg hiv t.laneSteps).trans ?_
    unfold Cfg.totalLat at hN
    congr 1
    omega
  · rw [lastValid_satOut p t.cfg hiv hd hN, accAt_laneInputs m g hd hN] at hlatch
    unfold lastOutput
    rw [hcols, hlatch]

/-- Every lane of a list of lanes stands at its row and column. -/
theorem Tile.exists_lane_of_mem {l : Lane} (hlen : t.lanes.length = t.rows * t.cols) (hl : l ∈ t.lanes) :
    ∃ i j, i < t.rows ∧ j < t.cols ∧ l = t.lane i j := by
  obtain ⟨n, hn, rfl⟩ := List.getElem_of_mem hl
  have hcols : 0 < t.cols := Nat.pos_of_ne_zero fun h0 => by simp [hlen, h0] at hn
  refine ⟨n / t.cols, n % t.cols, Nat.div_lt_of_lt_mul (by rw [Nat.mul_comm, ← hlen]; exact hn), Nat.mod_lt _ hcols, ?_⟩
  rw [Tile.lane, Nat.div_add_mod', List.getD_eq_getElem _ _ hn]

end

/-- Settles O51: the answer is `exec_gemm_of_legal`, and every lane is one of `gemmRun_lane_post`. -/
theorem gemmCompletesWithThePostState : Obligations.GemmCompletesWithThePostState := by
  unfold Obligations.GemmCompletesWithThePostState
  intro s t g hs ht ho hc hsep hl
  have hwf := hs.tile_wf ht
  obtain ⟨hrows, hcols, hdepth, hcfg, hfmt⟩ := gemmRun_sameShape s.params s.mem g t
  have hlen : (gemmRun s.params s.mem g t).lanes.length = t.rows * t.cols :=
    (gemmRun_lanes_length ..).trans (hs.lanes_length ht)
  refine ⟨_, { gemmRun s.params s.mem g t with seq := none }, exec_gemm_of_legal hwf ht ho hc hsep hl, hrows, hcols, hdepth,
    hcfg, hfmt, gemmRun_cycle .., rfl, hlen, fun l hmem => ?_⟩
  obtain ⟨i, j, hi, hj, rfl⟩ := Tile.exists_lane_of_mem (hlen.trans (by rw [hrows, hcols])) hmem
  obtain ⟨-, hcnt, hvalid, -⟩ := gemmRun_lane_post hwf s.mem g (hrows ▸ hi) (hcols ▸ hj)
  exact ⟨hcnt, hvalid⟩

/-! ### The write-back (R329, R332) -/

/-- An element after writing a list of elements, where every write to it has the same value. -/
theorem readElem_foldl_memWrite_same {r : ArrayRef} {idx : SeqPos → Nat} {val : SeqPos → F32} {qs : List SeqPos}
    {m : Memory} (h : Memory.wf m) {e : Nat} {v : F32} (hmem : ∃ q ∈ qs, e = r.base + idx q)
    (hval : ∀ q ∈ qs, e = r.base + idx q → val q = v) :
    (qs.foldl (fun m q => memWrite m r (idx q) (val q)) m).readElem e = v := by
  induction qs generalizing m with
  | nil => simp at hmem
  | cons q qs ih =>
    by_cases hlater : ∃ q' ∈ qs, e = r.base + idx q'
    · exact ih (m := memWrite m r _ _) (Memory.writeElem_wf h _ _) hlater fun q' hq' => hval q' (List.mem_cons_of_mem _ hq')
    · push Not at hlater
      obtain ⟨q', hq', he⟩ := hmem
      obtain rfl | hq' := List.mem_cons.1 hq'
      · rw [List.foldl_cons, readElem_foldl_memWrite_other r idx val qs (m := memWrite m r _ _)
          (Memory.writeElem_wf h _ _) hlater, he, memWrite, Memory.readElem_writeElem_same h]
        exact hval q' List.mem_cons_self he
      · exact absurd he (hlater q' hq')

theorem readElem_writeBack {g : GemmArrays} {t : Tile} {m : Memory} (h : Memory.wf m) (hl : t.cols ≤ g.ldd) {i j : Nat}
    (hi : i < t.rows) (hj : j < t.cols) : (writeBack g t m).readElem (dstElem g i j) = lastOutput t i j := by
  refine readElem_foldl_memWrite_same h ⟨⟨.main, 0, i, j⟩, mem_gridPass.2 ⟨rfl, rfl, hi, hj⟩, rfl⟩ fun q hq he => ?_
  obtain ⟨-, -, -, hqj⟩ := mem_gridPass.1 hq
  obtain ⟨rfl, rfl⟩ := laneIndex_inj (by omega) (by omega) (Nat.add_left_cancel he)
  rfl

/-- Settles O52: the lane's sum and last valid output (`gemmRun_lane_post`), written by the write-back. -/
theorem gemmWritesTheMatrixProduct : Obligations.GemmWritesTheMatrixProduct := by
  unfold Obligations.GemmWritesTheMatrixProduct
  intro s t g hs ht ho hc hsep hl
  have hwf := hs.tile_wf ht
  obtain ⟨hmem, -⟩ := id hs
  obtain ⟨-, -, hldd⟩ := id hl
  obtain ⟨hrows, hcols, -⟩ := gemmRun_sameShape s.params s.mem g t
  refine ⟨_, _, exec_gemm_of_legal hwf ht ho hc hsep hl, rfl, fun i j hi hj => ?_⟩
  obtain ⟨hacc, -, -, hlast⟩ := gemmRun_lane_post hwf s.mem g hi hj
  refine ⟨hacc, ?_⟩
  rw [← hlast]
  exact readElem_writeBack hmem (hcols ▸ hldd) (hrows ▸ hi) (hcols ▸ hj)

/-- Settles O53: only the write-back touches memory, and it writes the bytes of those elements. -/
theorem gemmWritesNothingOutsideDst : Obligations.GemmWritesNothingOutsideDst := by
  unfold Obligations.GemmWritesNothingOutsideDst
  intro s t g hs ht ho hc hsep hl
  obtain ⟨hmem, -⟩ := id hs
  obtain ⟨hrows, hcols, -⟩ := gemmRun_sameShape s.params s.mem g t
  refine ⟨_, exec_gemm_of_legal (hs.tile_wf ht) ht ho hc hsep hl, fun a ha => ?_⟩
  refine read_foldl_memWrite_outside _ _ _ _ hmem fun q hq hquot => ?_
  obtain ⟨-, -, hi, hj⟩ := mem_gridPass.1 hq
  exact ha q.i q.j (a % 4) (hrows ▸ hi) (hcols ▸ hj) (Nat.mod_lt _ (by omega)) (by rw [← hquot]; omega)

/-! ### What GEMM does not depend on (R322, R331 (b)) -/

theorem gemmRun_eq_of_sameShape {p : Params} {t₁ t₂ : Tile} (m : Memory) (g : GemmArrays) (h₁ : t₁.wf p) (h₂ : t₂.wf p)
    (h : t₂.SameShape t₁) : gemmRun p m g t₁ = gemmRun p m g t₂ := by
  obtain ⟨hrows, hcols, hdepth, hcfg, hfmt⟩ := h
  rw [gemmRun, gemmRun, gemmStart, gemmStart, Tile.cleared_eq_fresh h₁, Tile.cleared_eq_fresh h₂, hrows, hcols, hdepth, hcfg,
    hfmt]

/-- Settles O54: the run starts from the cleared tile, which the shape determines. -/
theorem gemmForgetsThePriorTile : Obligations.GemmForgetsThePriorTile := by
  unfold Obligations.GemmForgetsThePriorTile
  intro s t₁ t₂ g h₁ h₂ hrows hcols hdepth hcfg hfmt ho hc hsep hl
  have hc₂ : g.containIndices t₂ := by rwa [GemmArrays.containIndices, ← hrows, ← hcols, ← hdepth]
  have hsep₂ : g.separate t₂ := by rwa [GemmArrays.separate, ← hrows, ← hcols]
  have hl₂ : g.stridesLegal t₂ := by rwa [GemmArrays.stridesLegal, ← hcols, ← hdepth]
  refine ⟨_, exec_gemm_of_legal (s := { s with tile := some t₁ }) h₁ rfl ho hc hsep hl, ?_⟩
  rw [exec_gemm_of_legal (s := { s with tile := some t₂ }) h₂ rfl ho hc₂ hsep₂ hl₂, gemmDone, gemmDone,
    gemmRun_eq_of_sameShape s.mem g h₁ h₂ ⟨hrows, hcols, hdepth, hcfg, hfmt⟩]
  rfl

section
variable {p : Params} {cfg : Cfg} {x y : Nat → LaneInput}

/-- Two streams of inputs that differ in the addend of the first input only. -/
def SameButFirstAddend (x y : Nat → LaneInput) : Prop :=
  (∀ n, (x n).iv = (y n).iv ∧ (x n).a = (y n).a ∧ (x n).b = (y n).b) ∧ ∀ n, 1 ≤ n → x n = y n

/-- With a multiply latency under AT_ADD_INPUT the first addend meets a bubble, so it reaches neither lane nor output. -/
theorem laneAt_satOut_congr (h : SameButFirstAddend x y) (hm : 1 ≤ cfg.latMul) (hp : p.addendAlign = .atAddInput) :
    (∀ n, satOut p cfg x n = satOut p cfg y n) ∧ ∀ n, cfg.totalLat < n → laneAt p cfg x n = laneAt p cfg y n := by
  obtain ⟨hops, hrest⟩ := h
  have hmulEntry : ∀ n, mulEntry p (x n) = mulEntry p (y n) := fun n => by
    obtain ⟨hiv, ha, hb⟩ := hops n
    rw [mulEntry_eq, mulEntry_eq, hiv, ha, hb, hp, if_neg (by decide), if_neg (by decide)]
  have haddIn : ∀ n, 1 ≤ n → addIn p cfg x n = addIn p cfg y n := fun n hn => by
    rw [addIn, addIn, mulOut, mulOut, funext hmulEntry, hrest n hn]
  have haddV : ∀ n, (addOut p cfg x n).v = (addOut p cfg y n).v := fun n => by
    simp only [addOut_v, (hops _).1]
  have haddOut : ∀ n, (addOut p cfg x n).v = true → addOut p cfg x n = addOut p cfg y n := fun n hv => by
    obtain ⟨hadd, hmul, -⟩ := addOut_d p cfg x hv
    rw [addOut, addOut, delay, delay, if_neg (Nat.not_lt.2 hadd), if_neg (Nat.not_lt.2 hadd), haddIn _ (by omega)]
  have hacc : ∀ n, accAt p cfg x n = accAt p cfg y n := fun n => by
    induction n with
    | zero => rfl
    | succ n ih =>
      rw [accAt, accAt, ih, ← haddV]
      split
      next hv => rw [haddOut n hv]
      next => rfl
  have hcnt : ∀ n, cntAt p cfg x n = cntAt p cfg y n := fun n => by
    simp only [cntAt_eq, haddV]
  have haccIn : accIn p cfg x = accIn p cfg y := funext fun n => by rw [accIn, accIn, hacc, haddV]
  have haccOut : accOut p cfg x = accOut p cfg y := funext fun n => by rw [accOut, accOut, haccIn]
  have hrndIn : rndIn p cfg x = rndIn p cfg y := funext fun n => by rw [rndIn, rndIn, haccOut]
  have hrndOut : rndOut p cfg x = rndOut p cfg y := funext fun n => by rw [rndOut, rndOut, hrndIn]
  have hsatIn : satIn p cfg x = satIn p cfg y := funext fun n => by rw [satIn, satIn, hrndOut]
  refine ⟨fun n => by rw [satOut, satOut, hsatIn], fun n hn => ?_⟩
  have haddLine : lineAt cfg.latAdd Slot.zero (addIn p cfg x) n = lineAt cfg.latAdd Slot.zero (addIn p cfg y) n := by
    refine List.map_congr_left fun k hk => ?_
    have hk' := List.mem_range.1 hk
    unfold Cfg.totalLat at hn
    rw [haddIn _ (by omega)]
  rw [laneAt, laneAt, hacc, hcnt, funext hmulEntry, haddLine, haccIn, hrndIn, hsatIn]

end

/-- The arrays without the bias. -/
def GemmArrays.withoutBias (g : GemmArrays) : GemmArrays := { g with bias := none }

theorem laneInputs_withoutBias (m : Memory) (g : GemmArrays) (depth i j : Nat) :
    SameButFirstAddend (laneInputs m g depth i j) (laneInputs m g.withoutBias depth i j) := by
  have hdrain : ∀ n, depth ≤ n → laneInputs m g depth i j n = laneInputs m g.withoutBias depth i j n := fun n h => by
    rw [laneInputs_drain m _ i j h, laneInputs_drain m _ i j h]
  refine ⟨fun n => ?_, fun n hn => ?_⟩ <;> obtain h | h := Nat.lt_or_ge n depth
  · rw [laneInputs_main m g i j h, laneInputs_main m g.withoutBias i j h]
    exact ⟨rfl, rfl, rfl⟩
  · rw [hdrain n h]
    exact ⟨rfl, rfl, rfl⟩
  · rw [laneInputs_main m g i j h, laneInputs_main m g.withoutBias i j h]
    unfold tapInput
    cases g.bias <;> simp [GemmArrays.withoutBias, Nat.ne_of_gt hn]
  · exact hdrain n h

/-- Two lists of lanes with the same lane at every place of the grid are the same. -/
theorem Tile.lanes_ext {t u : Tile} (ht : t.lanes.length = t.rows * t.cols) (hu : u.lanes.length = t.rows * t.cols)
    (hcols : u.cols = t.cols) (h : ∀ i j, i < t.rows → j < t.cols → t.lane i j = u.lane i j) : t.lanes = u.lanes := by
  refine List.ext_getElem (ht.trans hu.symm) fun n hn hn' => ?_
  have hpos : 0 < t.cols := Nat.pos_of_ne_zero fun h0 => by simp [ht, h0] at hn
  have hlane := h (n / t.cols) (n % t.cols) (Nat.div_lt_of_lt_mul (by rw [Nat.mul_comm, ← ht]; exact hn)) (Nat.mod_lt _ hpos)
  rwa [Tile.lane, Tile.lane, hcols, Nat.div_add_mod', List.getD_eq_getElem _ _ hn, List.getD_eq_getElem _ _ hn'] at hlane

theorem writeBack_congr {g g' : GemmArrays} {t t' : Tile} (m : Memory) (hdst : g'.dst = g.dst) (hldd : g'.ldd = g.ldd)
    (hrows : t'.rows = t.rows) (hcols : t'.cols = t.cols)
    (h : ∀ i j, i < t.rows → j < t.cols → lastOutput t i j = lastOutput t' i j) : writeBack g t m = writeBack g' t' m := by
  rw [writeBack, writeBack, hdst, hldd, hrows, hcols]
  refine List.foldl_ext _ _ _ fun m q hq => ?_
  obtain ⟨-, -, hi, hj⟩ := mem_gridPass.1 hq
  rw [h q.i q.j hi hj]

section
variable {p : Params} {t : Tile}

/-- Behind a multiply latency under AT_ADD_INPUT a GEMM runs every lane as without the bias. -/
theorem gemmRun_withoutBias (h : t.wf p) (m : Memory) (g : GemmArrays) (hm : 1 ≤ t.cfg.latMul)
    (hp : p.addendAlign = .atAddInput) :
    { gemmRun p m g t with seq := none } = { gemmRun p m g.withoutBias t with seq := none }
      ∧ ∀ m', writeBack g (gemmRun p m g t) m' = writeBack g.withoutBias (gemmRun p m g.withoutBias t) m' := by
  obtain ⟨hrows, hcols, hdepth, hcfg, hfmt⟩ := gemmRun_sameShape p m g t
  obtain ⟨hrows', hcols', hdepth', hcfg', hfmt'⟩ := gemmRun_sameShape p m g.withoutBias t
  obtain ⟨-, -, -, -, hlen, -⟩ := id h
  have hlane : ∀ i j, i < t.rows → j < t.cols →
      (gemmRun p m g t).lane i j = (gemmRun p m g.withoutBias t).lane i j
        ∧ lastOutput (gemmRun p m g t) i j = lastOutput (gemmRun p m g.withoutBias t) i j := fun i j hi hj => by
    obtain ⟨hl, hlatch⟩ := gemmRun_lane h m g hi hj
    obtain ⟨hl', hlatch'⟩ := gemmRun_lane h m g.withoutBias hi hj
    obtain ⟨hsat, hat⟩ := laneAt_satOut_congr (laneInputs_withoutBias m g t.depth i j) hm hp
    rw [hl, hl', hat _ (by unfold Tile.laneSteps; omega), lastOutput, lastOutput, hcols, hcols', hlatch, hlatch', funext hsat]
    exact ⟨rfl, rfl⟩
  have hlanes : (gemmRun p m g t).lanes = (gemmRun p m g.withoutBias t).lanes :=
    Tile.lanes_ext (by rw [gemmRun_lanes_length, hlen, hrows, hcols]) (by rw [gemmRun_lanes_length, hlen, hrows, hcols])
      (hcols'.trans hcols.symm) fun i j hi hj => (hlane i j (hrows ▸ hi) (hcols ▸ hj)).1
  refine ⟨?_, fun m' => writeBack_congr m' rfl rfl (hrows'.trans hrows.symm) (hcols'.trans hcols.symm)
    fun i j hi hj => (hlane i j (hrows ▸ hi) (hcols ▸ hj)).2⟩
  simp only [hrows, hcols, hdepth, hcfg, hfmt, hrows', hcols', hdepth', hcfg', hfmt', hlanes, gemmRun_cycle]

end

/-- Settles O56: both GEMMs complete (`exec_gemm_of_legal`), and their runs leave the same (`gemmRun_withoutBias`). -/
theorem theBiasIsLostBehindAMultiplyLatency : Obligations.TheBiasIsLostBehindAMultiplyLatency := by
  unfold Obligations.TheBiasIsLostBehindAMultiplyLatency
  intro s t g hs ht ho hc hsep hl hm hp
  have hwf := hs.tile_wf ht
  obtain ⟨hlhs, hrhs, -, hdst, hlda, hldb, hldd⟩ := id ho
  obtain ⟨hclhs, hcrhs, -, hcdst⟩ := id hc
  have hc' : g.withoutBias.containIndices t := ⟨hclhs, hcrhs, fun b hb => (nomatch hb), hcdst⟩
  have hsep' : g.withoutBias.separate t := fun i j hi hj =>
    ⟨(hsep i j hi hj).1, (hsep i j hi hj).2.1, fun b hb => (nomatch hb)⟩
  obtain ⟨htile, hmem⟩ := gemmRun_withoutBias hwf s.mem g hm hp
  refine ⟨_, _, exec_gemm_of_legal hwf ht ho hc hsep hl,
    exec_gemm_of_legal (s := { s with args := { s.args with bias := none } }) (g := g.withoutBias) hwf ht
      ⟨hlhs, hrhs, rfl, hdst, hlda, hldb, hldd⟩ hc' hsep' hl, ?_⟩
  rw [gemmDone, htile, hmem]
  rfl

end Sys2Proof.Machine
end

section
/-! SUPPORT. The event history of a GEMM (spec/20_memory.md R96): its events are those of its taps in order and then its writes;
replaying them runs the taps and the write-back. -/

namespace Sys2Proof.Machine

/-! ### Events of a run of taps -/

section
variable (p : Params) (m : Memory) (g : GemmArrays)

/-- The STEP of a tap that the tile `t` reaches. -/
def tapStep (t : Tile) (q : SeqPos) : GemmEvent :=
  .step q.i q.j (tapInput m g q) (tileStep p q.i q.j (tapInput m g q) t).2

theorem tapEvents_cons_tapStep (q : SeqPos) (qs : List SeqPos) (t : Tile) :
    tapEvents p m g (q :: qs) t = tapReads m g q ++ tapStep p m g t q :: tapEvents p m g qs (gemmTap p m g t q) := rfl

/-- Every event of a run of taps is a read of a tap or its STEP. -/
theorem mem_tapEvents {qs : List SeqPos} {t : Tile} {e : GemmEvent} (h : e ∈ tapEvents p m g qs t) :
    ∃ q ∈ qs, e ∈ tapReads m g q ∨ ∃ u, e = tapStep p m g u q := by
  induction qs generalizing t with
  | nil => simp at h
  | cons q qs ih =>
    rw [tapEvents_cons, List.mem_append, List.mem_cons] at h
    obtain h | rfl | h := h
    · exact ⟨q, List.mem_cons_self, .inl h⟩
    · exact ⟨q, List.mem_cons_self, .inr ⟨t, rfl⟩⟩
    · obtain ⟨q', hq', he⟩ := ih h
      exact ⟨q', List.mem_cons_of_mem q hq', he⟩

/-- A read of a tap reads the array's element as the memory holds it. -/
theorem mem_tapReads {q : SeqPos} {e : GemmEvent} (h : e ∈ tapReads m g q) :
    (∃ idx, e = .read .lhs idx (memRead m g.lhs idx)) ∨ (∃ idx, e = .read .rhs idx (memRead m g.rhs idx))
      ∨ ∃ b idx, g.bias = some b ∧ e = .read .bias idx (memRead m b idx) := by
  unfold tapReads at h
  split at h
  · simp only [List.cons_append, List.nil_append, List.mem_cons] at h
    obtain rfl | rfl | h := h
    · exact .inl ⟨_, rfl⟩
    · exact .inr (.inl ⟨_, rfl⟩)
    · split at h
      next b hb =>
        split at h
        · exact .inr (.inr ⟨b, _, hb, List.mem_singleton.1 h⟩)
        · cases h
      next => cases h
  · cases h

/-- What a function of the STEPs only collects from a run of taps. -/
theorem filterMap_tapEvents_cons {α : Type} (f : GemmEvent → Option α) (hf : ∀ sp idx v, f (.read sp idx v) = none)
    (q : SeqPos) (qs : List SeqPos) (t : Tile) :
    (tapEvents p m g (q :: qs) t).filterMap f
      = (f (tapStep p m g t q)).toList ++ (tapEvents p m g qs (gemmTap p m g t q)).filterMap f := by
  have hreads : (tapReads m g q).filterMap f = [] := by
    refine List.filterMap_eq_nil_iff.2 fun e he => ?_
    obtain ⟨_, rfl⟩ | ⟨_, rfl⟩ | ⟨_, _, -, rfl⟩ := mem_tapReads m g he <;> exact hf ..
  rw [tapEvents_cons_tapStep, List.filterMap_append, hreads, List.nil_append, List.filterMap_cons]
  cases f (tapStep p m g t q) <;> rfl

/-- The STEPs of a run of taps are those of the taps in order. -/
theorem tapEvents_stepOf (qs : List SeqPos) (t : Tile) :
    (tapEvents p m g qs t).filterMap GemmEvent.stepOf = qs.map fun q => (q.i, q.j, tapInput m g q) := by
  induction qs generalizing t with
  | nil => rfl
  | cons q qs ih =>
    rw [filterMap_tapEvents_cons p m g _ (fun _ _ _ => rfl), ih]
    rfl

theorem tapEvents_writeOf (qs : List SeqPos) (t : Tile) : (tapEvents p m g qs t).filterMap GemmEvent.writeOf = [] := by
  induction qs generalizing t with
  | nil => rfl
  | cons q qs ih =>
    rw [filterMap_tapEvents_cons p m g _ (fun _ _ _ => rfl), ih]
    rfl

theorem tapEvents_writes {qs : List SeqPos} {t : Tile} {e : GemmEvent} (h : e ∈ tapEvents p m g qs t) :
    e.writes = false := by
  obtain ⟨q, -, he | ⟨u, rfl⟩⟩ := mem_tapEvents p m g h
  · obtain ⟨_, rfl⟩ | ⟨_, rfl⟩ | ⟨_, _, -, rfl⟩ := mem_tapReads m g he <;> rfl
  · rfl

/-- Where a STEP stands in a run of taps: behind the events of the taps before it and the reads of its own. -/
theorem tapEvents_eq_append_step {qs : List SeqPos} {t : Tile} {pre post : List GemmEvent} {i j : Nat} {x : LaneInput}
    {out : Slot} (h : tapEvents p m g qs t = pre ++ .step i j x out :: post) :
    ∃ before q after, qs = before ++ q :: after ∧ pre = tapEvents p m g before t ++ tapReads m g q
      ∧ .step i j x out = tapStep p m g (before.foldl (gemmTap p m g) t) q := by
  induction qs generalizing t pre with
  | nil => simp at h
  | cons q qs ih =>
    have hread : .step i j x out ∉ tapReads m g q := fun he => by
      obtain ⟨_, he⟩ | ⟨_, he⟩ | ⟨_, _, -, he⟩ := mem_tapReads m g he <;> cases he
    have hfirst : ∀ {rest}, pre = tapReads m g q → .step i j x out :: post = tapStep p m g t q :: rest →
        ∃ before q' after, q :: qs = before ++ q' :: after ∧ pre = tapEvents p m g before t ++ tapReads m g q'
          ∧ .step i j x out = tapStep p m g (before.foldl (gemmTap p m g) t) q' := fun hpre hpost => by
      obtain ⟨hstep, -⟩ := List.cons.inj hpost
      exact ⟨[], q, qs, rfl, hpre, hstep⟩
    rw [tapEvents_cons_tapStep] at h
    obtain ⟨rest, hpre, hpost⟩ | ⟨rest, hreads, hpost⟩ := List.append_eq_append_iff.1 h
    · cases rest with
      | nil => exact hfirst (by simpa using hpre) hpost.symm
      | cons e rest =>
        obtain ⟨rfl, hrest⟩ := List.cons.inj hpost
        obtain ⟨before, q', after, rfl, rfl, hstep⟩ := ih hrest
        exact ⟨q :: before, q', after, rfl, by rw [hpre, tapEvents_cons_tapStep, List.append_assoc, List.cons_append], hstep⟩
    · cases rest with
      | nil => exact hfirst (by simpa using hreads.symm) hpost
      | cons e rest =>
        obtain ⟨rfl, -⟩ := List.cons.inj hpost
        exact absurd (hreads ▸ List.mem_append_right pre List.mem_cons_self) hread

/-! ### Replay -/

/-- Replaying a run of taps runs them; the sequencer's own state is not replayed. -/
theorem foldl_apply_tapEvents (qs : List SeqPos) (m' : Memory) (t : Tile) :
    (tapEvents p m g qs t).foldl (GemmEvent.apply p g) (m', { t with seq := none })
      = (m', { qs.foldl (gemmTap p m g) t with seq := none }) := by
  induction qs generalizing t with
  | nil => rfl
  | cons q qs ih =>
    rw [tapEvents_cons, List.foldl_append, foldl_apply_tapReads, List.foldl_cons, apply_step]
    exact ih (gemmTap p m g t q)

theorem foldl_apply_writeEvents (t u : Tile) (m' : Memory) :
    (writeEvents g t).foldl (GemmEvent.apply p g) (m', u) = (writeBack g t m', u) := by
  rw [writeEvents, writeBack, List.foldl_map]
  generalize gridPass .main 0 t.rows t.cols = qs
  induction qs generalizing m' with
  | nil => rfl
  | cons q qs ih => exact ih _

/-! ### How many reads -/

/-- The reads of a tap, counted by space. -/
theorem countP_tapReads (sp : ReadSpace) (q : SeqPos) :
    (tapReads m g q).countP (GemmEvent.reads sp) =
      if q.phase = .main ∧ (sp = .bias → g.bias ≠ none ∧ q.n = 0) then 1 else 0 := by
  obtain ⟨phase, n, i, j⟩ := q
  unfold tapReads
  cases phase with
  | drain => simp
  | main =>
    cases g.bias with
    | none => cases sp <;> simp [GemmEvent.reads]
    | some b => by_cases hn : n = 0 <;> cases sp <;> simp [GemmEvent.reads, hn]

theorem countP_tapEvents (sp : ReadSpace) (qs : List SeqPos) (t : Tile) :
    (tapEvents p m g qs t).countP (GemmEvent.reads sp)
      = qs.countP fun q => decide (q.phase = .main ∧ (sp = .bias → g.bias ≠ none ∧ q.n = 0)) := by
  induction qs generalizing t with
  | nil => rfl
  | cons q qs ih =>
    rw [tapEvents_cons, List.countP_append, List.countP_cons_of_neg (by simp [GemmEvent.reads]), ih, countP_tapReads,
      List.countP_cons, Nat.add_comm]
    simp only [decide_eq_true_eq]

end

/-- A property of the phase and the number of the pass holds at all taps of a pass or at none. -/
theorem countP_gridPass (f : SeqPhase → Nat → Bool) (phase : SeqPhase) (n rows cols : Nat) :
    (gridPass phase n rows cols).countP (fun q => f q.phase q.n) = if f phase n then rows * cols else 0 := by
  have hpass : ∀ q ∈ gridPass phase n rows cols, f q.phase q.n = f phase n := fun q hq => by
    obtain ⟨hphase, hn, -⟩ := mem_gridPass.1 hq
    rw [hphase, hn]
  split
  next h => rw [List.countP_eq_length.2 fun q hq => (hpass q hq).trans h, gridPass_length]
  next h => exact List.countP_eq_zero.2 fun q hq => by rw [hpass q hq]; exact h

/-- The taps of a GEMM that have a property of the main phase's pass number. -/
theorem countP_gemmTaps (f : Nat → Prop) [DecidablePred f] (rows cols depth lat : Nat) :
    (gemmTaps rows cols depth lat).countP (fun q => decide (q.phase = .main ∧ f q.n))
      = (List.range depth).countP (fun k => decide (f k)) * (rows * cols) := by
  have hpass : ∀ phase n, (gridPass phase n rows cols).countP (fun q => decide (q.phase = .main ∧ f q.n))
      = if decide (phase = .main ∧ f n) = true then rows * cols else 0 := fun phase n =>
    countP_gridPass (fun phase n => decide (phase = .main ∧ f n)) phase n rows cols
  have hmain : (mainTaps rows cols depth).countP (fun q => decide (q.phase = .main ∧ f q.n))
      = (List.range depth).countP (fun k => decide (f k)) * (rows * cols) := by
    rw [mainTaps]
    induction depth with
    | zero => simp
    | succ depth ih =>
      rw [List.range_succ, List.flatMap_append, List.countP_append, ih, List.flatMap_singleton, hpass, List.countP_append,
        List.countP_singleton, Nat.add_mul]
      simp
  have hdrain : (drainTaps rows cols lat).countP (fun q => decide (q.phase = .main ∧ f q.n)) = 0 := by
    refine List.countP_eq_zero.2 fun q hq => ?_
    obtain ⟨d, -, hd⟩ := List.mem_flatMap.1 hq
    obtain ⟨hphase, -⟩ := mem_gridPass.1 hd
    simp [hphase]
  rw [gemmTaps, List.countP_append, hmain, hdrain, Nat.add_zero]

/-! ### The events of one lane -/

/-- Operands and output of a STEP on lane (r, c). -/
def GemmEvent.stepOn (r c : Nat) : GemmEvent → Option (LaneInput × Slot)
  | .read _ _ _ => none
  | .step i j x out => if i = r ∧ j = c then some (x, out) else none
  | .write _ _ => none

theorem onLane_eq (r c : Nat) (e : GemmEvent) : e.onLane r c = (e.stepOn r c).map fun y => (y.1.iv, y.2.v) := by
  cases e with
  | step i j x out => rw [onLane_step, GemmEvent.stepOn]; split <;> rfl
  | read | write => rfl

theorem validOut_eq (r c : Nat) (e : GemmEvent) :
    e.validOut r c = (e.stepOn r c).bind fun y => if y.2.v then some y.2.d else none := by
  cases e with
  | step i j x out =>
    by_cases h : i = r ∧ j = c
    · simp [GemmEvent.validOut, GemmEvent.stepOn, h]
    · rw [GemmEvent.stepOn, if_neg h]
      exact if_neg fun hv => h ⟨hv.1, hv.2.1⟩
  | read | write => rfl

/-- The STEPs of a run of taps on one lane: its inputs with the outputs of their run. -/
theorem tapEvents_stepOn (p : Params) (m : Memory) (g : GemmArrays) {i j : Nat} (qs : List SeqPos) {t : Tile}
    (hlanes : t.lanes.length = t.rows * t.cols) (hj : j < t.cols) (hqs : ∀ q ∈ qs, q.i < t.rows ∧ q.j < t.cols) :
    (tapEvents p m g qs t).filterMap (GemmEvent.stepOn i j)
      = ((lanePart i j qs).map (tapInput m g)).zip
          (laneRun p t.cfg ((lanePart i j qs).map (tapInput m g)) (t.lane i j)).2 := by
  induction qs generalizing t with
  | nil => rfl
  | cons q qs ih =>
    obtain ⟨hqi, hqj⟩ := hqs q List.mem_cons_self
    have hrest := ih (t := gemmTap p m g t q) (by simpa using hlanes) hj fun q' hq' => hqs q' (List.mem_cons_of_mem q hq')
    rw [gemmTap_lane p m g hlanes hqi hqj hj, gemmTap_cfg] at hrest
    rw [filterMap_tapEvents_cons p m g _ (fun _ _ _ => rfl), hrest]
    by_cases h : q.i = i ∧ q.j = j
    · obtain ⟨rfl, rfl⟩ := h
      rw [lanePart_cons_of_eq ⟨rfl, rfl⟩, List.map_cons, laneRun_cons, if_pos ⟨rfl, rfl⟩, tapStep, GemmEvent.stepOn,
        if_pos ⟨rfl, rfl⟩]
      rfl
    · rw [lanePart_cons_of_ne h, if_neg fun e => h (e.imp Eq.symm Eq.symm), tapStep, GemmEvent.stepOn, if_neg h]
      rfl

theorem not_step_mem_writeEvents {g : GemmArrays} {t : Tile} {i j : Nat} {x : LaneInput} {out : Slot} :
    .step i j x out ∉ writeEvents g t := fun h => by
  obtain ⟨_, -, h⟩ := List.mem_map.1 h
  cases h

theorem filterMap_writeEvents {α : Type} (f : GemmEvent → Option α) (hf : ∀ idx v, f (.write idx v) = none)
    {g : GemmArrays} {t : Tile} : (writeEvents g t).filterMap f = [] := by
  refine List.filterMap_eq_nil_iff.2 fun e he => ?_
  obtain ⟨_, -, rfl⟩ := List.mem_map.1 he
  exact hf ..

/-- The STEPs of a GEMM on one lane, by number. -/
theorem gemmEvents_stepOn {p : Params} {t : Tile} (h : t.wf p) (m : Memory) (g : GemmArrays) {i j : Nat} (hi : i < t.rows)
    (hj : j < t.cols) :
    (gemmEvents p m g t).filterMap (GemmEvent.stepOn i j) = (List.range t.laneSteps).map fun n =>
      (laneInputs m g t.depth i j n, satOut p t.cfg (laneInputs m g t.depth i j) n) := by
  obtain ⟨-, -, -, -, hlanes, -⟩ := id h
  have hstart : (gemmStart t).lane i j = Lane.fresh t.cfg := Tile.cleared_lane h i j
  rw [gemmEvents, List.filterMap_append, filterMap_writeEvents _ fun _ _ => rfl, List.append_nil,
    tapEvents_stepOn p m g (t := gemmStart t) (gemmTaps t.rows t.cols t.depth t.cfg.totalLat) (by simpa using hlanes) hj
      fun q hq => mem_gemmTaps hq,
    map_tapInput_lanePart m g t.depth t.cfg.totalLat hi hj, hstart, gemmStart_cfg, laneRun_fresh, Tile.laneSteps,
    List.zip_map']

/-- The last of the valid entries. -/
theorem getLast?_filterMap_valid (outs : List Slot) :
    (outs.filterMap fun o => if o.v then some o.d else none).getLast? = lastValid none outs := by
  induction outs using List.reverseRecOn with
  | nil => rfl
  | append_singleton outs o ih =>
    rw [lastValid, List.foldl_append, List.filterMap_append, List.getLast?_append, ih]
    cases h : o.v <;> simp [lastValid, h]

/-- The most recent valid output of a lane is what is written for it. -/
theorem gemmEvents_getLast?_validOut {p : Params} {t : Tile} (h : t.wf p) (m : Memory) (g : GemmArrays) {i j : Nat}
    (hi : i < t.rows) (hj : j < t.cols) :
    ((gemmEvents p m g t).filterMap (GemmEvent.validOut i j)).getLast? = some (lastOutput (gemmRun p m g t) i j) := by
  obtain ⟨-, -, hd, -⟩ := id h
  obtain ⟨-, -, -, hlast⟩ := gemmRun_lane_post h m g hi hj
  have hN : t.depth + t.cfg.totalLat ≤ t.laneSteps := by unfold Tile.laneSteps; omega
  have houts : ∀ steps : List (LaneInput × Slot), steps.filterMap (fun y => if y.2.v then some y.2.d else none)
      = (steps.map Prod.snd).filterMap fun o => if o.v then some o.d else none := fun steps => by
    rw [List.filterMap_map]
    rfl
  rw [hlast, funext (validOut_eq i j), ← List.filterMap_filterMap, gemmEvents_stepOn h m g hi hj, houts, List.map_map,
    getLast?_filterMap_valid, ← accAt_laneInputs m g hd hN]
  exact lastValid_satOut p t.cfg (laneInputs_iv m g t.depth i j) hd hN

/-! ### The history -/

section
variable {s : State} {t : Tile} {g : GemmArrays}

theorem gemmHistory_of_legal (hwf : t.wf s.params) (ht : s.tile = some t) (ho : s.args.offers g) (hc : g.containIndices t)
    (hs : g.separate t) (hl : g.stridesLegal t) : gemmHistory s = gemmEvents s.params s.mem g t := by
  unfold gemmHistory
  rw [exec_gemm_of_legal hwf ht ho hc hs hl, ht, gemmArrays_of_offers ho]
  rfl

theorem gemmHistory_of_badStrides (hwf : t.wf s.params) (ht : s.tile = some t) (ho : s.args.offers g)
    (hc : g.containIndices t) (hs : g.separate t) (hl : ¬ g.stridesLegal t) : gemmHistory s = [] := by
  unfold gemmHistory
  rw [exec_gemm_of_badStrides hwf ht ho hc hs hl]
  rfl

end

/-- The reads of a main tap are those that its number and operands give. -/
theorem tapReads_eq_readsOf (m : Memory) (g : GemmArrays) {q : SeqPos} (h : q.phase = .main) :
    tapReads m g q = readsOf g q.n q.i q.j (tapInput m g q) := by
  obtain ⟨_, n, i, j⟩ := q
  cases h
  unfold tapReads readsOf tapInput
  cases g.bias with
  | none => simp
  | some b => by_cases hn : n = 0 <;> simp [hn]

theorem phase_of_tapInput_iv {m : Memory} {g : GemmArrays} {q : SeqPos} (h : (tapInput m g q).iv = true) :
    q.phase = .main := by
  unfold tapInput at h
  split at h
  next hphase => exact hphase
  next => cases h

theorem mem_gemmTaps_main {rows cols depth lat : Nat} {q : SeqPos} (h : q ∈ gemmTaps rows cols depth lat)
    (hq : q.phase = .main) : q.n < depth := by
  simp only [gemmTaps, mainTaps, drainTaps, List.mem_append, List.mem_flatMap, mem_gridPass, List.mem_range] at h
  obtain ⟨_, hk, -, rfl, -⟩ | ⟨_, -, hphase, -⟩ := h
  · exact hk
  · rw [hq] at hphase
    cases hphase

section
variable {p : Params} {t : Tile} (m : Memory) (g : GemmArrays)

/-- Without the sequencer's state the tile at the first tap is the cleared one. -/
theorem Tile.cleared_eq_gemmStart (h : t.wf p) : t.cleared = { gemmStart t with seq := none } := by
  obtain ⟨-, -, -, -, -, -, hseq⟩ := h
  rw [← hseq]
  rfl

/-- Replaying a GEMM's events from the cleared tile. -/
theorem foldl_apply_gemmEvents (h : t.wf p) :
    (gemmEvents p m g t).foldl (GemmEvent.apply p g) (m, t.cleared)
      = (writeBack g (gemmRun p m g t) m, { gemmRun p m g t with seq := none }) := by
  rw [gemmEvents, List.foldl_append, Tile.cleared_eq_gemmStart h, foldl_apply_tapEvents, foldl_apply_writeEvents]
  rfl

/-- Where a STEP of a GEMM stands. -/
theorem gemmEvents_eq_append_step (h : t.wf p) {pre post : List GemmEvent} {i j : Nat} {x : LaneInput} {out : Slot}
    (he : gemmEvents p m g t = pre ++ .step i j x out :: post) :
    out = (tileStep p i j x (pre.foldl (GemmEvent.apply p g) (m, t.cleared)).2).2
      ∧ (x.iv = true → ∃ k before, k < t.depth ∧ pre = before ++ readsOf g k i j x) := by
  have htaps : ∃ post', tapEvents p m g (gemmTaps t.rows t.cols t.depth t.cfg.totalLat) (gemmStart t)
      = pre ++ .step i j x out :: post' := by
    obtain ⟨rest, hpre, hpost⟩ | ⟨rest, htaps, hpost⟩ := List.append_eq_append_iff.1 he
    · exact absurd (hpost ▸ List.mem_append_right rest List.mem_cons_self) not_step_mem_writeEvents
    · cases rest with
      | nil => exact absurd (hpost ▸ List.mem_cons_self) (not_step_mem_writeEvents (x := x) (out := out))
      | cons e rest =>
        obtain ⟨rfl, -⟩ := List.cons.inj hpost
        exact ⟨rest, htaps⟩
  obtain ⟨post', htaps⟩ := htaps
  obtain ⟨before, q, after, hqs, rfl, hstep⟩ := tapEvents_eq_append_step p m g htaps
  rw [tapStep] at hstep
  injection hstep with hi hj hx hout
  subst hi hj hx
  refine ⟨?_, fun hiv => ?_⟩
  · rw [List.foldl_append, Tile.cleared_eq_gemmStart h, foldl_apply_tapEvents, foldl_apply_tapReads, hout]
    rfl
  · have hphase := phase_of_tapInput_iv hiv
    refine ⟨q.n, tapEvents p m g before (gemmStart t), ?_, ?_⟩
    · exact mem_gemmTaps_main (hqs ▸ List.mem_append_right before List.mem_cons_self) hphase
    · rw [tapReads_eq_readsOf m g hphase]

theorem mem_gemmEvents_read {sp : ReadSpace} {idx : Nat} {v : F32} (h : .read sp idx v ∈ gemmEvents p m g t) :
    (sp = .lhs → v = memRead m g.lhs idx) ∧ (sp = .rhs → v = memRead m g.rhs idx)
      ∧ (sp = .bias → ∃ b, g.bias = some b ∧ v = memRead m b idx) := by
  obtain h | h := List.mem_append.1 h
  · obtain ⟨q, -, h | ⟨u, h⟩⟩ := mem_tapEvents p m g h
    · obtain ⟨_, h⟩ | ⟨_, h⟩ | ⟨b, _, hb, h⟩ := mem_tapReads m g h <;> cases h
      · exact ⟨fun _ => rfl, nofun, nofun⟩
      · exact ⟨nofun, fun _ => rfl, nofun⟩
      · exact ⟨nofun, nofun, fun _ => ⟨b, hb, rfl⟩⟩
    · cases h
  · obtain ⟨_, -, h⟩ := List.mem_map.1 h
    cases h

theorem mem_gemmEvents_write (hl : t.cols ≤ g.ldd) {i j : Nat} (hj : j < t.cols) {v : F32}
    (h : .write (i * g.ldd + j) v ∈ gemmEvents p m g t) : v = lastOutput (gemmRun p m g t) i j := by
  obtain ⟨-, hcols, -⟩ := gemmRun_sameShape p m g t
  obtain h | h := List.mem_append.1 h
  · cases tapEvents_writes p m g h
  · obtain ⟨q, hq, h⟩ := List.mem_map.1 h
    obtain ⟨-, -, -, hqj⟩ := mem_gridPass.1 hq
    injection h with hindex hv
    rw [hcols] at hqj
    obtain ⟨rfl, rfl⟩ := laneIndex_inj (by omega) (by omega) hindex
    exact hv.symm

theorem countP_writeEvents (sp : ReadSpace) (u : Tile) : (writeEvents g u).countP (GemmEvent.reads sp) = 0 := by
  refine List.countP_eq_zero.2 fun e he => ?_
  obtain ⟨_, -, rfl⟩ := List.mem_map.1 he
  simp [GemmEvent.reads]

/-- The reads of LHS or RHS: one of each in every main tap. -/
theorem countP_gemmEvents_operand {sp : ReadSpace} (hsp : sp ≠ .bias) :
    (gemmEvents p m g t).countP (GemmEvent.reads sp) = t.depth * t.rows * t.cols := by
  have hall : (List.range t.depth).countP (fun k => decide (sp = .bias → g.bias ≠ none ∧ k = 0)) = t.depth := by
    simp [hsp]
  rw [gemmEvents, List.countP_append, countP_writeEvents, Nat.add_zero, countP_tapEvents,
    countP_gemmTaps (fun n => sp = .bias → g.bias ≠ none ∧ n = 0), hall, Nat.mul_assoc]

/-- The reads of BIAS: one in every tap of the first pass. -/
theorem countP_gemmEvents_bias (hd : 1 ≤ t.depth) :
    (gemmEvents p m g t).countP (GemmEvent.reads .bias) = if g.bias = none then 0 else t.rows * t.cols := by
  obtain ⟨d, hd⟩ := Nat.exists_eq_add_of_le' hd
  have hfirst : (List.range t.depth).countP (fun k => decide (ReadSpace.bias = .bias → g.bias ≠ none ∧ k = 0))
      = if g.bias = none then 0 else 1 := by
    rw [hd, List.range_succ_eq_map]
    split
    next h => simp [h]
    next h => simp [h, List.countP_eq_zero]
  rw [gemmEvents, List.countP_append, countP_writeEvents, Nat.add_zero, countP_tapEvents,
    countP_gemmTaps (fun n => ReadSpace.bias = .bias → g.bias ≠ none ∧ n = 0), hfirst]
  split <;> simp

theorem gemmEvents_stepOf : (gemmEvents p m g t).filterMap GemmEvent.stepOf
    = (gemmTaps t.rows t.cols t.depth t.cfg.totalLat).map fun q => (q.i, q.j, tapInput m g q) := by
  rw [gemmEvents, List.filterMap_append, filterMap_writeEvents _ fun _ _ => rfl, List.append_nil, tapEvents_stepOf]

theorem gemmEvents_writeOf : (gemmEvents p m g t).filterMap GemmEvent.writeOf
    = (List.range t.rows).flatMap fun i => (List.range t.cols).map fun j => i * g.ldd + j := by
  obtain ⟨hrows, hcols, -⟩ := gemmRun_sameShape p m g t
  rw [gemmEvents, List.filterMap_append, tapEvents_writeOf, List.nil_append, writeEvents, hrows, hcols, List.filterMap_map,
    gridPass, List.filterMap_flatMap]
  refine congrArg (List.flatMap · (List.range t.rows)) (funext fun i => ?_)
  rw [List.filterMap_map]
  exact congrFun List.filterMap_eq_map _

end

/-- Settles O60: the history is `gemmEvents`, and each clause is the lemma about it. -/
theorem theEventHistoryOfAGemm : Obligations.TheEventHistoryOfAGemm := by
  unfold Obligations.TheEventHistoryOfAGemm
  intro s t g hs ht ho hc hsep
  have hwf := hs.tile_wf ht
  obtain ⟨-, -, hd, -⟩ := id hwf
  obtain ⟨hrows, hcols, -⟩ := gemmRun_sameShape s.params s.mem g t
  refine ⟨gemmHistory_of_badStrides hwf ht ho hc hsep, fun hl => ?_⟩
  obtain ⟨-, -, hldd⟩ := id hl
  rw [gemmHistory_of_legal hwf ht ho hc hsep hl]
  refine ⟨gemmDone s g t, _, exec_gemm_of_legal hwf ht ho hc hsep hl, rfl, foldl_apply_gemmEvents s.mem g hwf,
    fun pre post i j x out he => gemmEvents_eq_append_step s.mem g hwf he,
    fun idx v => ⟨fun h => (mem_gemmEvents_read s.mem g h).1 rfl, fun h => (mem_gemmEvents_read s.mem g h).2.1 rfl,
      fun h => (mem_gemmEvents_read s.mem g h).2.2 rfl⟩,
    gemmEvents_stepOf s.mem g, countP_gemmEvents_operand s.mem g (by decide), countP_gemmEvents_operand s.mem g (by decide),
    countP_gemmEvents_bias s.mem g hd,
    ⟨_, _, rfl, fun e he => tapEvents_writes s.params s.mem g he, fun e he => ?write, ?length⟩,
    gemmEvents_writeOf s.mem g, fun i j v hi hj h => ?last⟩
  case write =>
    obtain ⟨_, -, rfl⟩ := List.mem_map.1 he
    rfl
  case length => rw [writeEvents, List.length_map, gridPass_length, hrows, hcols]
  case last => rw [mem_gemmEvents_write s.mem g hldd hj h, gemmEvents_getLast?_validOut hwf s.mem g hi hj]

end Sys2Proof.Machine
end

section
/-! SUPPORT. The history and the phase of a lane along a run (spec/10_state.md R47): what each command does to the history, and
that a lane whose history has no valid input is at rest. -/

namespace Sys2Proof.Machine

/-! ### The phase of a history -/

/-- A lane is Idle exactly while no valid input has come. -/
theorem lanePhase_eq_idle_iff (h : LaneHistory) : lanePhase h = .idle ↔ ∀ e ∈ h, e.1 = false := by
  have hall : h.all (fun e => e.1 == false) = true ↔ ∀ e ∈ h, e.1 = false := by simp
  unfold lanePhase
  by_cases hidle : ∀ e ∈ h, e.1 = false
  · rw [if_pos (hall.2 hidle)]
    exact ⟨fun _ => hidle, fun _ => rfl⟩
  · rw [if_neg (fun hh => hidle (hall.1 hh))]
    cases hlast : h.getLast? with
    | none =>
      rw [List.getLast?_eq_none_iff.1 hlast] at hidle
      simp at hidle
    | some e => exact iff_of_false (by cases he : e.2 <;> simp [he]) hidle

/-- The phase after one more STEP. -/
theorem lanePhase_append_singleton (h : LaneHistory) (iv ov : Bool) :
    lanePhase (h ++ [(iv, ov)])
      = if iv = false ∧ ∀ e ∈ h, e.1 = false then .idle else if ov then .valid else .filling := by
  split
  next hidle =>
    obtain ⟨hiv, hh⟩ := hidle
    rw [lanePhase_eq_idle_iff]
    intro e he
    obtain he | he := List.mem_append.1 he
    · exact hh e he
    · rw [List.mem_singleton.1 he]
      exact hiv
  next hidle =>
    have hnot : ¬ (h ++ [(iv, ov)]).all (fun e => e.1 == false) = true := by
      simp only [List.all_append, List.all_cons, List.all_nil, Bool.and_true, Bool.and_eq_true, List.all_eq_true, beq_iff_eq]
      exact fun hh => hidle ⟨hh.2, hh.1⟩
    unfold lanePhase
    rw [if_neg hnot, List.getLast?_concat]

/-! ### The history after a GEMM -/

/-- The history of a lane after a GEMM: K valid inputs, then bubbles, the last of which answers a bubble (R331 (c)). -/
theorem gemmEvents_onLane {p : Params} {t : Tile} (h : t.wf p) (m : Memory) (g : GemmArrays) {i j : Nat} (hi : i < t.rows)
    (hj : j < t.cols) :
    (gemmEvents p m g t).filterMap (GemmEvent.onLane i j) = (List.range t.laneSteps).map fun n =>
      (decide (n < t.depth), decide (t.cfg.totalLat ≤ n ∧ n < t.cfg.totalLat + t.depth)) := by
  rw [funext (onLane_eq i j), ← List.map_filterMap, gemmEvents_stepOn h m g hi hj, List.map_map]
  refine List.map_congr_left fun n _ => ?_
  rw [Function.comp_apply, laneInputs_iv, satOut_v, delay_iv (laneInputs_iv m g t.depth i j)]

theorem lanePhase_gemmEvents {p : Params} {t : Tile} (h : t.wf p) (m : Memory) (g : GemmArrays) {i j : Nat}
    (hi : i < t.rows) (hj : j < t.cols) :
    lanePhase ((gemmEvents p m g t).filterMap (GemmEvent.onLane i j)) = .filling := by
  obtain ⟨-, -, hd, -⟩ := id h
  have hlast : List.range t.laneSteps = List.range (t.depth + t.cfg.totalLat) ++ [t.depth + t.cfg.totalLat] :=
    List.range_succ
  have hdrained : ¬ (t.cfg.totalLat ≤ t.depth + t.cfg.totalLat
      ∧ t.depth + t.cfg.totalLat < t.cfg.totalLat + t.depth) := by omega
  have hbusy : ¬ (decide (t.depth + t.cfg.totalLat < t.depth) = false
      ∧ ∀ e ∈ (List.range (t.depth + t.cfg.totalLat)).map fun n =>
          (decide (n < t.depth), decide (t.cfg.totalLat ≤ n ∧ n < t.cfg.totalLat + t.depth)), e.1 = false) := by
    rintro ⟨-, hall⟩
    have hfirst := hall _ (List.mem_map_of_mem (List.mem_range.2 (show 0 < t.depth + t.cfg.totalLat by omega)))
    exact absurd (of_decide_eq_false hfirst) (by omega)
  rw [gemmEvents_onLane h m g hi hj, hlast, List.map_append, List.map_singleton, lanePhase_append_singleton, if_neg hbusy,
    decide_eq_false hdrained]
  rfl

/-! ### A lane at rest -/

/-- The accumulator is +0.0, nothing has been counted, and no slot is valid. -/
def Lane.atRest (l : Lane) : Prop := l.acc = F32.posZero ∧ l.cnt = 0 ∧ ∀ st, ∀ x ∈ l.line st, x.v = false

theorem Lane.fresh_atRest (cfg : Cfg) : (Lane.fresh cfg).atRest := by
  refine ⟨rfl, rfl, fun st x hx => ?_⟩
  cases st with
  | mul =>
    obtain ⟨y, hy, rfl⟩ := List.mem_map.1 hx
    rw [List.eq_of_mem_replicate hy]
    rfl
  | add | acc | rnd | sat => rw [List.eq_of_mem_replicate hx]; rfl

/-- What a push of an invalid entry into a line without valid entries answers and leaves. -/
theorem push_of_invalid {α : Type} {v : α → Bool} {line : List α} {y : α} (hline : ∀ z ∈ line, v z = false)
    (hy : v y = false) : v (push line y).1 = false ∧ ∀ z ∈ (push line y).2, v z = false := by
  have hmem : ∀ z ∈ (push line y).2 ++ [(push line y).1], v z = false := by
    rw [push_split]
    exact List.forall_mem_cons.2 ⟨hy, hline⟩
  exact ⟨hmem _ (List.mem_append_right _ (List.mem_singleton_self _)), fun z hz => hmem z (List.mem_append_left _ hz)⟩

/-- A STEP without a valid input leaves a lane at rest. -/
theorem laneStep_atRest (p : Params) (cfg : Cfg) {x : LaneInput} {l : Lane} (hl : l.atRest) (hx : x.iv = false) :
    (laneStep p cfg x l).1.atRest := by
  obtain ⟨hacc, hcnt, hlines⟩ := hl
  obtain ⟨hmulOut, hmulLine⟩ := push_of_invalid (v := MulSlot.v) (line := l.mulLine) (y := mulEntry p x)
    (fun z hz => hlines .mul _ (List.mem_map_of_mem hz)) hx
  obtain ⟨haddOut, haddLine⟩ : (addPush p x l).1.v = false ∧ ∀ z ∈ (addPush p x l).2, z.v = false :=
    push_of_invalid (hlines .add) hmulOut
  obtain ⟨haccOut, haccLine⟩ : (accPush p x l).1.v = false ∧ ∀ z ∈ (accPush p x l).2, z.v = false :=
    push_of_invalid (hlines .acc) haddOut
  obtain ⟨hrndOut, hrndLine⟩ : (rndPush p cfg x l).1.v = false ∧ ∀ z ∈ (rndPush p cfg x l).2, z.v = false :=
    push_of_invalid (hlines .rnd) haccOut
  obtain ⟨-, hsatLine⟩ : (satPush p cfg x l).1.v = false ∧ ∀ z ∈ (satPush p cfg x l).2, z.v = false :=
    push_of_invalid (hlines .sat) hrndOut
  rw [laneStep_eq]
  refine ⟨(if_neg (by simp [haddOut])).trans hacc, (if_neg (by simp [haddOut])).trans hcnt, fun st => ?_⟩
  cases st with
  | mul =>
    intro e he
    obtain ⟨z, hz, rfl⟩ := List.mem_map.1 he
    exact hmulLine z hz
  | add => exact haddLine
  | acc => exact haccLine
  | rnd => exact hrndLine
  | sat => exact hsatLine

/-! ### Histories along a run -/

/-- Lane (r, c) of the tile is at rest unless the history has a valid input. -/
def historyFits (r c : Nat) (s : State) (h : LaneHistory) : Prop :=
  ∀ t, s.tile = some t → r < t.rows → c < t.cols → (∀ e ∈ h, e.1 = false) → (t.lane r c).atRest

theorem historyFits.congr {r c : Nat} {s u : State} {h : LaneHistory} (hs : historyFits r c s h) (htile : u.tile = s.tile) :
    historyFits r c u h := fun t ht => hs t (htile ▸ ht)

/-- A command keeps the fit of a lane and its history. -/
theorem commandHistory_fits {r c : Nat} {i : Instr} {s u : State} {h : LaneHistory} (hi : i.opClass = none) (hinv : s.inv)
    (hfit : historyFits r c s h) (hu : exec i s = .next u) : historyFits r c u (commandHistory r c i s u h) := by
  cases i with
  | init =>
    obtain ⟨hs, -, ⟨-, rfl⟩ | ⟨-, -, rfl⟩ | ⟨-, -, rfl⟩⟩ := execInit_next hu
    · exact fun t ht => absurd (hs.symm.trans ht) nofun
    · exact fun t ht => absurd (hs.symm.trans ht) nofun
    · rintro _ ⟨⟩ - - -
      rw [show (Tile.fresh s.args.cfg s.args.fmt s.args.rows s.args.cols s.args.depth).lane r c = Lane.fresh s.args.cfg from
        List.getElem?_getD_replicate_default_eq ..]
      exact Lane.fresh_atRest s.args.cfg
  | reset =>
    obtain ⟨t, hs, rfl⟩ := execReset_next hu
    rintro _ ⟨⟩ - - -
    rw [Tile.cleared_lane (hinv.tile_wf hs)]
    exact Lane.fresh_atRest t.cfg
  | free =>
    obtain rfl := execFree_next hu
    exact fun t ht => nomatch ht
  | step =>
    obtain ⟨t, hs, ⟨-, rfl⟩ | ⟨hr, hc, rfl⟩⟩ := execStep_next hu
    · exact hfit.congr rfl
    · rintro _ ⟨⟩ hr' hc' hidle
      rw [tileStep_lane _ (hinv.lanes_length hs) hr hc hc']
      by_cases hlane : s.args.row = r ∧ s.args.col = c
      · obtain ⟨rfl, rfl⟩ := hlane
        have hhistory : ∀ e ∈ h ++ [(s.args.inputValid, (tileStep s.params s.args.row s.args.col s.args.laneInput t).2.v)],
            e.1 = false := by simpa [commandHistory] using hidle
        rw [if_pos ⟨rfl, rfl⟩]
        exact laneStep_atRest _ _ (hfit t hs hr hc fun e he => hhistory e (List.mem_append_left _ he))
          (hhistory _ (List.mem_append_right _ (List.mem_singleton_self _)))
      · have hhistory : ∀ e ∈ h, e.1 = false := by simpa [commandHistory, hlane] using hidle
        rw [if_neg fun e => hlane (e.imp Eq.symm Eq.symm)]
        exact hfit t hs hr' hc' hhistory
  | gemm =>
    obtain ⟨t, g, hs, -, -, -, ⟨-, rfl⟩ | ⟨-, rfl⟩⟩ := execGemm_next hu
    · exact hfit.congr rfl
    · rintro _ ⟨⟩ hr hc hidle
      obtain ⟨hrows, hcols, -⟩ := gemmRun_sameShape s.params s.mem g t
      obtain ⟨t', g', ht', -, -, hevents⟩ | ⟨hstatus, -⟩ := gemmHistory_of_next hu
      · obtain rfl : t = t' := Option.some.inj (hs.symm.trans ht')
        have hfilling := lanePhase_gemmEvents (hinv.tile_wf hs) s.mem g' (hrows ▸ hr) (hcols ▸ hc)
        rw [← hevents] at hfilling
        exact absurd (((lanePhase_eq_idle_iff _).2 hidle).symm.trans hfilling) (by decide)
      · cases hstatus
  | cmdRsvd5 | cmdRsvd6 | cmdRsvd7 => cases hu
  | _ => cases hi

theorem stepHistory_of_no_command {s : State} (h : ∀ code, (present s).activity ≠ .commanded code) (r c : Nat)
    (l : LaneHistory) : stepHistory r c s l = l := by
  unfold stepHistory
  split
  next code hcode => exact absurd hcode (h code)
  next => rfl
  next => rfl

theorem stepHistory_of_command {s u : State} {code : CommandCode} (h : (present s).activity = .commanded code)
    (hu : exec (decodeCommand code) (present s) = .next u) (r c : Nat) (l : LaneHistory) :
    stepHistory r c s l = commandHistory r c (decodeCommand code) (present s) u l := by
  have hu' : exec (decode (.command code)) (present s) = .next u := hu
  unfold stepHistory
  rw [h]
  dsimp only
  rw [hu']
  rfl

theorem decodeClass_opClass_ne_none (c : OpClass) (cw : ControlWord) : (decodeClass c cw).opClass ≠ none := by
  obtain ⟨hcontrol, -⟩ := everyWordSelectsOneRowOfEachClass
  obtain ⟨-, -, -, hclass, -⟩ := hcontrol cw c
  rw [hclass]
  exact nofun

/-- A step of the machine keeps the fit of a lane and its history. -/
theorem step_historyFits {r c : Nat} {s u : State} {h : LaneHistory} (hinv : s.inv) (hfit : historyFits r c s h)
    (hu : step s = .next u) : historyFits r c u (stepHistory r c s h) := by
  obtain ⟨-, -, -, -, htile, -⟩ := present_frame s
  have hpresent : historyFits r c (present s) h := hfit.congr htile
  obtain ⟨hf, rfl⟩ | ⟨e, v, hf, hexec, rfl⟩ := step_next hu
  · rw [stepHistory_of_no_command fun code hcode => nomatch (fetch_of_commanded hcode).symm.trans hf]
    exact hpresent
  · obtain ⟨a, ha⟩ := advance_eq v
    rw [ha]
    cases hact : (present s).activity with
    | idle =>
      unfold fetch at hf
      rw [hact] at hf
      cases hf
    | evaluating op =>
      obtain rfl := Option.some.inj ((fetch_of_evaluating hact).symm.trans hf)
      obtain ⟨hslice, -⟩ := exec_slice_frame (decodeClass_opClass_ne_none op _) hexec
      rw [stepHistory_of_no_command fun code hcode => nomatch hact.symm.trans hcode]
      exact hpresent.congr hslice
    | commanded code =>
      obtain rfl := Option.some.inj ((fetch_of_commanded hact).symm.trans hf)
      rw [stepHistory_of_command hact hexec]
      exact (commandHistory_fits (rowsSelecting_command code).2 (present_inv hinv) hpresent hexec).congr rfl

theorem runSteps_historyFits {r c : Nat} (n : Nat) {s u : State} {h : LaneHistory} (hinv : s.inv)
    (hfit : historyFits r c s h) (hu : runSteps n s = .next u) : historyFits r c u (runHistory r c n s h) := by
  induction n generalizing s h with
  | zero =>
    obtain rfl : s = u := by simpa [runSteps] using hu
    exact hfit
  | succ n ih =>
    cases hstep : step s with
    | next v =>
      rw [runSteps_succ hstep] at hu
      simp only [runHistory, hstep]
      exact ih (step_inv hinv hstep) (step_historyFits hinv hfit hstep) hu
    | fault | refused => simp [runSteps, hstep] at hu

/-! ### The phase after each command -/

/-- A step of a command that stands on the port is that command. -/
theorem step_next_commanded {s u : State} {code : CommandCode} (h : s.activity = .commanded code) (hu : step s = .next u) :
    ∃ v, exec (decodeCommand code) s = .next v ∧ u.result = v.result
      ∧ ∀ r c l, stepHistory r c s l = commandHistory r c (decodeCommand code) s v l := by
  have hp := present_of_commanded h
  obtain ⟨hf, -⟩ | ⟨e, v, hf, hexec, rfl⟩ := step_next hu
  · rw [hp, fetch_of_commanded h] at hf
    cases hf
  · rw [hp, fetch_of_commanded h] at hf
    rw [hp] at hexec
    obtain rfl := Option.some.inj hf
    obtain ⟨a, ha⟩ := advance_eq v
    exact ⟨v, hexec, by rw [ha], fun r c l => stepHistory_commanded h hexec r c l⟩

/-- Settles O59: the history after each command, and `runSteps_historyFits` along a run. -/
theorem theLanePhaseFollowsTheRun : Obligations.TheLanePhaseFollowsTheRun := by
  unfold Obligations.TheLanePhaseFollowsTheRun
  refine ⟨fun r c s u h hact hu => ?reset, fun r c s u h hact hu => ?init, fun r c s u h hact hu => ?step,
    fun s t g hs ht ho hc hsep hl hact => ?gemm, fun r c s op h hact => stepHistory_evaluating hact r c h,
    fun r c n s u t hinv htile hrun ht hr hc hidle => ?run⟩
  case reset =>
    obtain ⟨v, -, -, hhistory⟩ := step_next_commanded hact hu
    rw [hhistory]
    rfl
  case init =>
    obtain ⟨v, hv, hresult, hhistory⟩ := step_next_commanded hact hu
    rw [hhistory, hresult]
    obtain ⟨-, -, ⟨-, rfl⟩ | ⟨-, -, rfl⟩ | ⟨-, -, rfl⟩⟩ := execInit_next hv <;> rfl
  case step =>
    obtain ⟨v, hv, hresult, hhistory⟩ := step_next_commanded hact hu
    rw [hhistory, hresult]
    obtain ⟨t, -, ⟨-, rfl⟩ | ⟨-, -, rfl⟩⟩ := execStep_next hv
    · rw [if_neg fun hok => nomatch hok.2.2]
      rfl
    · by_cases hlane : s.args.row = r ∧ s.args.col = c
      · rw [if_pos ⟨hlane.1, hlane.2, rfl⟩]
        refine ⟨_, rfl, ?_⟩
        rw [← lanePhase_append_singleton]
        exact congrArg lanePhase (if_pos hlane)
      · rw [if_neg fun hok => hlane ⟨hok.1, hok.2.1⟩]
        exact if_neg hlane
  case gemm =>
    have hwf := hs.tile_wf ht
    have hexec := exec_gemm_of_legal hwf ht ho hc hsep hl
    refine ⟨_, step_of_commanded hact hexec, fun r c h hr hc' => ?_⟩
    rw [stepHistory_commanded hact hexec]
    have hfilling := lanePhase_gemmEvents hwf s.mem g hr hc'
    rwa [← gemmHistory_of_legal hwf ht ho hc hsep hl] at hfilling
  case run =>
    have hfit : historyFits r c s [] := fun t ht => absurd (htile.symm.trans ht) nofun
    exact runSteps_historyFits n hinv hfit hrun t ht hr hc ((lanePhase_eq_idle_iff _).1 hidle)

end Sys2Proof.Machine
end

section
/-! SUPPORT. The patterns of binary32 (spec/00_scope.md R18) as a sign and 31 lower bits, and what the two operations answer on
special operands (spec/45_tile_step.md R283 to R285). -/

namespace Sys2Proof.Machine

/-! ### A pattern from its sign and its lower bits -/

/-- The lower bits of an infinity; a finite pattern is below, a NaN above. -/
def lowInf : Nat := 0x7F800000

section
variable {low : Nat} (s : Bool)

theorem f32Signed_toNat (h : low < 2 ^ 31) : (f32Signed s low).toNat = (if s then 2 ^ 31 else 0) + low := by
  rw [f32Signed, BitVec.toNat_ofNat]
  split <;> omega

theorem f32Sign_f32Signed (h : low < 2 ^ 31) : f32Sign (f32Signed s low) = s := by
  rw [f32Sign, BitVec.getLsbD, f32Signed_toNat s h, Nat.testBit_eq_decide_div_mod_eq]
  cases s
  · exact decide_eq_false (by simp; omega)
  · exact decide_eq_true (by simp; omega)

theorem f32Exp_f32Signed (h : low < 2 ^ 31) : f32Exp (f32Signed s low) = low / 2 ^ 23 := by
  rw [f32Exp, BitVec.extractLsb'_toNat, f32Signed_toNat s h, Nat.shiftRight_eq_div_pow]
  split <;> omega

theorem f32Frac_f32Signed (h : low < 2 ^ 31) : f32Frac (f32Signed s low) = low % 2 ^ 23 := by
  rw [f32Frac, BitVec.extractLsb'_toNat, f32Signed_toNat s h, Nat.shiftRight_eq_div_pow]
  split <;> omega

theorem getLsbD_zero_f32Signed (h : low < 2 ^ 31) : (f32Signed s low).getLsbD 0 = decide (low % 2 = 1) := by
  rw [BitVec.getLsbD, f32Signed_toNat s h, Nat.testBit_eq_decide_div_mod_eq]
  exact decide_eq_decide.2 (by split <;> omega)

theorem isFinite_f32Signed (h : low < 2 ^ 31) : isFinite (f32Signed s low) = decide (low < lowInf) := by
  rw [isFinite, f32Exp_f32Signed s h, bne, beq_eq_decide, ← decide_not, lowInf]
  exact decide_eq_decide.2 (by omega)

theorem isInf_f32Signed (h : low < 2 ^ 31) : isInf (f32Signed s low) = decide (low = lowInf) := by
  rw [isInf, f32Exp_f32Signed s h, f32Frac_f32Signed s h, beq_eq_decide, beq_eq_decide, ← Bool.decide_and, lowInf]
  exact decide_eq_decide.2 (by omega)

theorem isNaN_f32Signed (h : low < 2 ^ 31) : isNaN (f32Signed s low) = decide (lowInf < low) := by
  rw [isNaN, f32Exp_f32Signed s h, f32Frac_f32Signed s h, bne, beq_eq_decide, beq_eq_decide, ← decide_not, ← Bool.decide_and,
    lowInf]
  exact decide_eq_decide.2 (by omega)

theorem isZero_f32Signed (h : low < 2 ^ 31) : isZero (f32Signed s low) = decide (low = 0) := by
  rw [isZero, f32Exp_f32Signed s h, f32Frac_f32Signed s h, beq_eq_decide, beq_eq_decide, ← Bool.decide_and]
  exact decide_eq_decide.2 (by omega)

end

/-- Every pattern has a sign and lower bits. -/
theorem exists_f32Signed (v : F32) : ∃ s low, low < 2 ^ 31 ∧ v = f32Signed s low := by
  have hlow : v.toNat % 2 ^ 31 < 2 ^ 31 := Nat.mod_lt _ (by decide)
  refine ⟨decide (2 ^ 31 ≤ v.toNat), v.toNat % 2 ^ 31, hlow, BitVec.eq_of_toNat_eq ?_⟩
  have hv := v.isLt
  rw [f32Signed_toNat _ hlow]
  split
  next h => have := of_decide_eq_true h; omega
  next h => have : v.toNat < 2 ^ 31 := by simpa using h
            omega

/-! ### Saturation (R285) -/

/-- Behind the sign bit of any pattern the mask of `sat32` puts the largest finite magnitude. -/
theorem sat32_of_not_finite {v : F32} (h : isFinite v = false) : sat32 v = f32Signed (f32Sign v) 0x7F7FFFFF := by
  have hmask : v &&& 0x80000000#32 = if v.getLsbD 31 then 0x80000000#32 else 0 := BitVec.and_twoPow v 31
  rw [sat32, h, if_neg (by decide), hmask, f32Sign]
  cases v.getLsbD 31 <;> decide

/-- Settles O26: a finite value is kept, and `sat32_of_not_finite` says what stands for the others. -/
theorem saturationClampsToTheFiniteRange : Obligations.SaturationClampsToTheFiniteRange := by
  unfold Obligations.SaturationClampsToTheFiniteRange
  intro v
  cases h : isFinite v with
  | true =>
    have hkeep : sat32 v = v := by rw [sat32, h, if_pos rfl]
    rw [hkeep]
    exact ⟨h, rfl, fun _ => rfl, nofun⟩
  | false =>
    have hlow : 0x7F7FFFFF < 2 ^ 31 := by decide
    have hexp : f32Exp (f32Signed (f32Sign v) 0x7F7FFFFF) = 254 := f32Exp_f32Signed _ hlow
    have hfrac : f32Frac (f32Signed (f32Sign v) 0x7F7FFFFF) = 8388607 := f32Frac_f32Signed _ hlow
    rw [sat32_of_not_finite h]
    refine ⟨(isFinite_f32Signed _ hlow).trans (by decide), f32Sign_f32Signed _ hlow, nofun, fun _ => ?_⟩
    rw [f32Value, hexp, hfrac, if_neg (show ¬ 254 = 0 by decide), abs_mul]
    cases (f32Signed (f32Sign v) 0x7F7FFFFF).getLsbD 31 <;> norm_num

/-! ### Special operands (R283, R284) -/

theorem mkNaN_isNaN (r : Bool × Fin 8388607) : isNaN (mkNaN r) = true := by
  have hr := r.2.isLt
  rw [mkNaN, isNaN_f32Signed _ (by omega), lowInf]
  exact decide_eq_true (by omega)

/-- The place, plus 149, of the last bit that rounding keeps: 23 below the leading bit, not below that of the subnormals. -/
def roundScale (m e : Nat) : Nat := Nat.log2 m + e - 172

/-- The significand rounded to that place. -/
def roundMant (m e : Nat) : Nat :=
  if e ≤ roundScale m e + 149 then rneShift m (roundScale m e + 149 - e) else m <<< (e - (roundScale m e + 149))

/-- Rounding packs place and significand, a carry running into the exponent field. -/
theorem roundPack_of_ne_zero (s : Bool) {m : Nat} (hm : m ≠ 0) (e : Nat) :
    roundPack s m e = f32Signed s (min (roundScale m e * 2 ^ 23 + roundMant m e) lowInf) := by
  have hpack : roundPack s m e = if roundScale m e * 2 ^ 23 + roundMant m e < lowInf
      then f32Signed s (roundScale m e * 2 ^ 23 + roundMant m e) else f32Signed s lowInf := if_neg hm
  rw [hpack]
  split
  next h => rw [Nat.min_eq_left h.le]
  next h => rw [Nat.min_eq_right (Nat.le_of_not_lt h)]

theorem roundPack_zero (s : Bool) (e : Nat) : roundPack s 0 e = f32Signed s 0 := if_pos rfl

/-- Rounding never gives a NaN, and keeps the sign. -/
theorem roundPack_eq_f32Signed (s : Bool) (m e : Nat) : ∃ low ≤ lowInf, roundPack s m e = f32Signed s low := by
  by_cases hm : m = 0
  · subst hm
    exact ⟨0, Nat.zero_le _, roundPack_zero s e⟩
  · exact ⟨_, Nat.min_le_right _ _, roundPack_of_ne_zero s hm e⟩

/-- The finite patterns are those that are neither NaN nor infinity. -/
theorem isFinite_eq (v : F32) : isFinite v = !(isNaN v || isInf v) := by
  obtain ⟨s, low, h, rfl⟩ := exists_f32Signed v
  rw [isFinite_f32Signed s h, isNaN_f32Signed s h, isInf_f32Signed s h, ← Bool.decide_or, ← decide_not]
  exact decide_eq_decide.2 (by omega)

theorem isNaN_of_finite {v : F32} (h : isFinite v = true) : isNaN v = false := by
  rw [isFinite_eq] at h
  cases hv : isNaN v <;> simp_all

theorem isInf_of_finite {v : F32} (h : isFinite v = true) : isInf v = false := by
  rw [isFinite_eq] at h
  cases hv : isInf v <;> simp_all

theorem isNaN_of_isInf {v : F32} (h : isInf v = true) : isNaN v = false := by
  unfold isInf at h
  unfold isNaN
  simp_all

theorem isInf_of_isZero {v : F32} (h : isZero v = true) : isInf v = false := by
  unfold isZero at h
  unfold isInf
  simp_all

theorem f32Mant_of_isZero {v : F32} (h : isZero v = true) : f32Mant v = 0 := by
  unfold isZero at h
  unfold f32Mant
  simp_all

theorem eq_of_isInf {v : F32} (h : isInf v = true) : v = f32Signed (f32Sign v) lowInf := by
  obtain ⟨s, low, hlow, rfl⟩ := exists_f32Signed v
  rw [isInf_f32Signed s hlow, decide_eq_true_iff] at h
  rw [f32Sign_f32Signed s hlow, h]

theorem roundPack_isNaN (s : Bool) (m e : Nat) : isNaN (roundPack s m e) = false := by
  obtain ⟨low, hlow, h⟩ := roundPack_eq_f32Signed s m e
  have hinf : lowInf < 2 ^ 31 := by decide
  rw [h, isNaN_f32Signed s (by omega)]
  exact decide_eq_false (by omega)

theorem roundPack_sign (s : Bool) (m e : Nat) : f32Sign (roundPack s m e) = s := by
  obtain ⟨low, hlow, h⟩ := roundPack_eq_f32Signed s m e
  have hinf : lowInf < 2 ^ 31 := by decide
  rw [h, f32Sign_f32Signed s (by omega)]

theorem lowInf_lt : lowInf < 2 ^ 31 := by decide

/-! ### The product -/

/-- The operands whose product is a NaN. -/
def mulInvalid (a b : F32) : Bool := isNaN a || isNaN b || (isInf a && isZero b) || (isZero a && isInf b)

theorem mulInvalid_comm (a b : F32) : mulInvalid a b = mulInvalid b a := by
  unfold mulInvalid
  ac_rfl

section
variable {a b : F32}

theorem mulInvalid_iff : mulInvalid a b = true ↔
    isNaN a = true ∨ isNaN b = true ∨ (isInf a = true ∧ isZero b = true) ∨ (isZero a = true ∧ isInf b = true) := by
  simp only [mulInvalid, Bool.or_eq_true, Bool.and_eq_true, or_assoc]

theorem ieeeMul_of_invalid (h : mulInvalid a b = true) : ieeeMul a b = mkNaN (Config.mulNan a b) := if_pos h

theorem ieeeMul_of_isInf (h : mulInvalid a b = false) (hi : (isInf a || isInf b) = true) :
    ieeeMul a b = f32Signed (f32Sign a != f32Sign b) lowInf :=
  (if_neg (by rw [Bool.not_eq_true]; exact h)).trans (if_pos hi)

theorem ieeeMul_of_valid (h : mulInvalid a b = false) (hi : (isInf a || isInf b) = false) :
    ieeeMul a b = roundPack (f32Sign a != f32Sign b) (f32Mant a * f32Mant b) (f32Scale a + f32Scale b) :=
  (if_neg (by rw [Bool.not_eq_true]; exact h)).trans (if_neg (by rw [Bool.not_eq_true]; exact hi))

theorem ieeeMul_of_finite (ha : isFinite a = true) (hb : isFinite b = true) :
    ieeeMul a b = roundPack (f32Sign a != f32Sign b) (f32Mant a * f32Mant b) (f32Scale a + f32Scale b) :=
  ieeeMul_of_valid (by simp [mulInvalid, isNaN_of_finite ha, isNaN_of_finite hb, isInf_of_finite ha, isInf_of_finite hb])
    (by simp [isInf_of_finite ha, isInf_of_finite hb])

theorem ieeeMul_isNaN : isNaN (ieeeMul a b) = mulInvalid a b := by
  cases h : mulInvalid a b with
  | true => rw [ieeeMul_of_invalid h, mkNaN_isNaN]
  | false =>
    cases hi : isInf a || isInf b with
    | true =>
      rw [ieeeMul_of_isInf h hi, isNaN_f32Signed _ lowInf_lt]
      exact decide_eq_false (lt_irrefl _)
    | false => rw [ieeeMul_of_valid h hi, roundPack_isNaN]

theorem ieeeMul_sign (h : mulInvalid a b = false) : f32Sign (ieeeMul a b) = (f32Sign a != f32Sign b) := by
  cases hi : isInf a || isInf b with
  | true => rw [ieeeMul_of_isInf h hi, f32Sign_f32Signed _ lowInf_lt]
  | false => rw [ieeeMul_of_valid h hi, roundPack_sign]

theorem ieeeMul_comm (h : mulInvalid a b = false) : ieeeMul a b = ieeeMul b a := by
  have h' : mulInvalid b a = false := (mulInvalid_comm b a).trans h
  cases hi : isInf a || isInf b with
  | true => rw [ieeeMul_of_isInf h hi, ieeeMul_of_isInf h' ((Bool.or_comm ..).trans hi), bne_comm]
  | false =>
    rw [ieeeMul_of_valid h hi, ieeeMul_of_valid h' ((Bool.or_comm ..).trans hi), bne_comm, Nat.mul_comm, Nat.add_comm]

theorem ieeeMul_isZero (h : mulInvalid a b = false) (hz : isZero a = true ∨ isZero b = true) :
    isZero (ieeeMul a b) = true := by
  have hi : (isInf a || isInf b) = false := by
    rw [← Bool.not_eq_true, Bool.or_eq_true]
    intro hi
    rw [← Bool.not_eq_true, mulInvalid_iff] at h
    obtain hz | hz := hz <;> obtain hi | hi := hi
    · exact absurd ((isInf_of_isZero hz).symm.trans hi) nofun
    · exact h (.inr (.inr (.inr ⟨hz, hi⟩)))
    · exact h (.inr (.inr (.inl ⟨hi, hz⟩)))
    · exact absurd ((isInf_of_isZero hz).symm.trans hi) nofun
  have hmant : f32Mant a * f32Mant b = 0 := by
    obtain hz | hz := hz <;> rw [f32Mant_of_isZero hz] <;> simp
  rw [ieeeMul_of_valid h hi, hmant, roundPack_zero, isZero_f32Signed _ (by decide)]
  exact decide_eq_true rfl

end

/-- Settles O28: by the three branches of the product. -/
theorem theSpecialProducts : Obligations.TheSpecialProducts := by
  unfold Obligations.TheSpecialProducts
  intro p a b hp
  rw [fmul_ieee hp, fmul_ieee hp, ieeeMul_isNaN]
  refine ⟨mulInvalid_iff, fun h => ⟨ieeeMul_sign h, ieeeMul_comm h⟩, fun h hi => ?_, ieeeMul_isZero⟩
  rw [ieeeMul_of_isInf h (by simpa using hi), isInf_f32Signed _ lowInf_lt]
  exact decide_eq_true rfl

end Sys2Proof.Machine
end

section
/-! SUPPORT. Rounding to nearest, ties to even (spec/45_tile_step.md R283, R284). Magnitudes are counted in units of 2^−298, the
last place of a product of two subnormals, so that the argument runs in the integers. -/

namespace Sys2Proof.Machine

/-! ### The magnitude of the lower bits -/

/-- The significand that 31 lower bits stand for. -/
def lowMant (low : Nat) : Nat := if low / 2 ^ 23 = 0 then low else low % 2 ^ 23 + 2 ^ 23

/-- The place of its last bit, plus 149. -/
def lowScale (low : Nat) : Nat := low / 2 ^ 23 - 1

section
variable {low : Nat} (s : Bool)

theorem f32Mant_f32Signed (h : low < 2 ^ 31) : f32Mant (f32Signed s low) = lowMant low := by
  rw [f32Mant, lowMant, f32Exp_f32Signed s h, f32Frac_f32Signed s h]
  split <;> omega

theorem f32Scale_f32Signed (h : low < 2 ^ 31) : f32Scale (f32Signed s low) = lowScale low := by
  rw [f32Scale, lowScale, f32Exp_f32Signed s h]
  split <;> omega

/-- Lower bits are packed from place and significand. -/
theorem low_eq_pack (low : Nat) :
    low = lowScale low * 2 ^ 23 + lowMant low ∧ lowMant low < 2 ^ 24 ∧ (lowScale low = 0 ∨ 2 ^ 23 ≤ lowMant low) := by
  unfold lowScale lowMant
  split <;> omega

/-- What packed place and significand stand for, a significand that carried into the next place included. -/
theorem lowMag_pack {q mant : Nat} (hm : mant ≤ 2 ^ 24) (hq : q = 0 ∨ 2 ^ 23 ≤ mant) :
    lowMant (q * 2 ^ 23 + mant) * 2 ^ lowScale (q * 2 ^ 23 + mant) = mant * 2 ^ q := by
  unfold lowMant lowScale
  obtain h | h | h : mant < 2 ^ 23 ∨ (2 ^ 23 ≤ mant ∧ mant < 2 ^ 24) ∨ mant = 2 ^ 24 := by omega
  · obtain rfl : q = 0 := by omega
    rw [if_pos (by omega), show (0 * 2 ^ 23 + mant) / 2 ^ 23 - 1 = 0 by omega, Nat.zero_mul, Nat.zero_add]
  · rw [if_neg (by omega), show (q * 2 ^ 23 + mant) % 2 ^ 23 + 2 ^ 23 = mant by omega,
      show (q * 2 ^ 23 + mant) / 2 ^ 23 - 1 = q by omega]
  · rw [if_neg (by omega), show (q * 2 ^ 23 + mant) % 2 ^ 23 + 2 ^ 23 = 2 ^ 23 by omega,
      show (q * 2 ^ 23 + mant) / 2 ^ 23 - 1 = q + 1 by omega, h, pow_succ']
    ring

/-- The magnitude grows with the lower bits. -/
theorem lowMag_strictMono : StrictMono fun low => lowMant low * 2 ^ lowScale low := by
  refine strictMono_nat_of_lt_succ fun low => ?_
  obtain ⟨hlow, hmant, hscale⟩ := low_eq_pack low
  have hnext : low + 1 = lowScale low * 2 ^ 23 + (lowMant low + 1) := by omega
  have hstep := lowMag_pack (q := lowScale low) (mant := lowMant low + 1) (by omega) (by omega)
  rw [← hnext] at hstep
  show _ < lowMant (low + 1) * 2 ^ lowScale (low + 1)
  rw [hstep]
  exact Nat.mul_lt_mul_of_pos_right (Nat.lt_succ_self _) (Nat.two_pow_pos _)

end

/-! ### Values in units of 2^−298 -/

/-- The unit, 2^−298. -/
def f32Unit : ℚ := 2 ^ (-298 : ℤ)

theorem f32Unit_pos : 0 < f32Unit := zpow_pos two_pos _

theorem two_pow_mul_f32Unit (n : Nat) : (2 : ℚ) ^ (n + 298) * f32Unit = 2 ^ n := by
  have hplace : ((n + 298 : Nat) : ℤ) + -298 = n := by omega
  rw [f32Unit, ← zpow_natCast, ← zpow_add₀ two_ne_zero, hplace, zpow_natCast]

/-- A finite pattern's value in units of 2^−298. -/
def f32Units (v : F32) : Int := f32Int v * 2 ^ (f32Scale v + 149)

theorem f32Value_eq_units (v : F32) : f32Value v = f32Units v * f32Unit := by
  have hsign : (f32Int v : ℚ) = (if v.getLsbD 31 then -1 else 1) * (f32Mant v : ℚ) := by
    unfold f32Int f32Sign
    split <;> push_cast <;> ring
  have hpow : (2 : ℚ) ^ (f32Scale v + 149) * f32Unit = 2 ^ ((f32Scale v : ℤ) - 149) := by
    have hplace : ((f32Scale v + 149 : Nat) : ℤ) + -298 = (f32Scale v : ℤ) - 149 := by omega
    rw [f32Unit, ← zpow_natCast, ← zpow_add₀ two_ne_zero, hplace]
  have hmag : (if f32Exp v = 0 then (f32Frac v : ℚ) * 2 ^ (-149 : ℤ)
      else (f32Frac v + 2 ^ 23 : ℚ) * 2 ^ ((f32Exp v : ℤ) - 150)) = (f32Mant v : ℚ) * 2 ^ ((f32Scale v : ℤ) - 149) := by
    unfold f32Mant f32Scale
    by_cases h : f32Exp v = 0
    · rw [if_pos h, if_pos h, if_pos h, Nat.cast_zero, zero_sub]
    · have hexp : (f32Exp v : ℤ) - 150 = ((f32Exp v - 1 : Nat) : ℤ) - 149 := by omega
      rw [if_neg h, if_neg h, if_neg h, hexp, Nat.cast_add]
      norm_num
  rw [f32Units, Int.cast_mul, Int.cast_pow, Int.cast_ofNat, mul_assoc, hpow, hsign, mul_assoc, f32Value, hmag]

/-- A magnitude with a sign. -/
def withSign (s : Bool) (n : Int) : Int := if s then -n else n

theorem f32Units_f32Signed (s : Bool) {low : Nat} (h : low < 2 ^ 31) :
    f32Units (f32Signed s low) = withSign s ((lowMant low * 2 ^ lowScale low : Nat) * 2 ^ 149) := by
  rw [f32Units, f32Int, withSign, f32Sign_f32Signed s h, f32Mant_f32Signed s h, f32Scale_f32Signed s h]
  split <;> push_cast <;> ring

/-! ### Rounding to a multiple -/

/-- `k · u` is the multiple of `u` nearest to `x`, the one with even `k` of two that are as near. -/
def NearestMultiple (x u k : Nat) : Prop :=
  2 * x ≤ (2 * k + 1) * u ∧ 2 * (k * u) ≤ 2 * x + u ∧ (2 * x = (2 * k + 1) * u ∨ 2 * (k * u) = 2 * x + u → k % 2 = 0)

theorem nearestMultiple_self {u : Nat} (hu : 0 < u) (k : Nat) : NearestMultiple (k * u) u k := by
  have hmid : (2 * k + 1) * u = 2 * (k * u) + u := by ring
  refine ⟨by omega, by omega, by omega⟩

theorem NearestMultiple.scale {x u k : Nat} (h : NearestMultiple x u k) {c : Nat} (hc : 0 < c) :
    NearestMultiple (x * c) (u * c) k := by
  obtain ⟨hup, hdown, htie⟩ := h
  have e₁ : 2 * (x * c) = 2 * x * c := by ring
  have e₂ : (2 * k + 1) * (u * c) = (2 * k + 1) * u * c := by ring
  have e₃ : 2 * (k * (u * c)) = 2 * (k * u) * c := by ring
  have e₄ : 2 * (x * c) + u * c = (2 * x + u) * c := by ring
  rw [NearestMultiple, e₂, e₃, e₄, e₁]
  exact ⟨Nat.mul_le_mul_right c hup, Nat.mul_le_mul_right c hdown,
    fun h => htie (h.imp (Nat.eq_of_mul_eq_mul_right hc) (Nat.eq_of_mul_eq_mul_right hc))⟩

/-- `rneShift` rounds to the nearest multiple. -/
theorem rneShift_nearest (m n : Nat) : NearestMultiple m (2 ^ n) (rneShift m n) := by
  have hdiv := Nat.div_add_mod m (2 ^ n)
  have hlt := Nat.mod_lt m (Nat.two_pow_pos n)
  have hmid : ∀ k, (2 * k + 1) * 2 ^ n = 2 * (2 ^ n * k) + 2 ^ n := fun k => by ring
  unfold rneShift
  rw [Nat.shiftRight_eq_div_pow]
  dsimp only
  rw [NearestMultiple]
  split
  · rw [hmid, Nat.mul_comm (m / 2 ^ n + 1), Nat.mul_add]
    omega
  · rw [hmid, Nat.mul_comm (m / 2 ^ n)]
    omega

/-- No multiple of `u` is nearer, and one that is as near makes `k` even. -/
theorem NearestMultiple.dist_le {x u k : Nat} (h : NearestMultiple x u k) (hu : 0 < u) {w : Int} (hw : (u : Int) ∣ w) :
    |((k * u : Nat) : Int) - x| ≤ |w - x|
      ∧ (w ≠ (k * u : Nat) → |w - x| = |((k * u : Nat) : Int) - x| → k % 2 = 0) := by
  obtain ⟨hup, hdown, htie⟩ := h
  obtain ⟨c, rfl⟩ := hw
  have hmid : (2 * k + 1) * u = 2 * (k * u) + u := by ring
  rw [hmid] at hup htie
  obtain hc | rfl | hc := lt_trichotomy c k
  · have hfar : (u : Int) * c ≤ (k * u : Nat) - u := by push_cast; nlinarith
    obtain ⟨e, he⟩ | ⟨e, he⟩ := abs_cases (((k * u : Nat) : Int) - x) <;>
      obtain ⟨e', he'⟩ | ⟨e', he'⟩ := abs_cases ((u : Int) * c - x) <;> rw [e, e'] <;> omega
  · rw [show (u : Int) * k = (k * u : Nat) by push_cast; ring]
    exact ⟨le_rfl, fun hne => absurd rfl hne⟩
  · have hfar : ((k * u : Nat) : Int) + u ≤ u * c := by push_cast; nlinarith
    obtain ⟨e, he⟩ | ⟨e, he⟩ := abs_cases (((k * u : Nat) : Int) - x) <;>
      obtain ⟨e', he'⟩ | ⟨e', he'⟩ := abs_cases ((u : Int) * c - x) <;> rw [e, e'] <;> omega

/-! ### The rounded significand -/

section
variable {m : Nat} (hm : m ≠ 0) (e : Nat)
include hm

/-- The place that rounding keeps, against the exact magnitude. -/
theorem roundScale_bounds : m * 2 ^ e < 2 ^ 24 * 2 ^ (roundScale m e + 149)
    ∧ (roundScale m e = 0 ∨ 2 ^ 23 * 2 ^ (roundScale m e + 149) ≤ m * 2 ^ e) := by
  rw [← pow_add, ← pow_add]
  constructor
  · calc m * 2 ^ e < 2 ^ (m.log2 + 1) * 2 ^ e := Nat.mul_lt_mul_of_pos_right Nat.lt_log2_self (Nat.two_pow_pos e)
      _ = 2 ^ (m.log2 + 1 + e) := (pow_add ..).symm
      _ ≤ _ := Nat.pow_le_pow_right (by decide) (by unfold roundScale; omega)
  · by_cases hq : roundScale m e = 0
    · exact .inl hq
    · refine .inr ?_
      calc 2 ^ (23 + (roundScale m e + 149)) = 2 ^ (m.log2 + e) := by
            congr 1
            unfold roundScale at hq ⊢
            omega
        _ = 2 ^ m.log2 * 2 ^ e := pow_add ..
        _ ≤ m * 2 ^ e := Nat.mul_le_mul_right _ (Nat.log2_self_le hm)

omit hm in
theorem roundMant_nearest (m e : Nat) : NearestMultiple (m * 2 ^ e) (2 ^ (roundScale m e + 149)) (roundMant m e) := by
  unfold roundMant
  split
  next h =>
    have hnear := (rneShift_nearest m (roundScale m e + 149 - e)).scale (Nat.two_pow_pos e)
    rwa [← pow_add, Nat.sub_add_cancel h] at hnear
  next h =>
    have hexact : m * 2 ^ e = m <<< (e - (roundScale m e + 149)) * 2 ^ (roundScale m e + 149) := by
      rw [Nat.shiftLeft_eq, Nat.mul_assoc, ← pow_add, Nat.sub_add_cancel (by omega)]
    rw [hexact]
    exact nearestMultiple_self (Nat.two_pow_pos _) _

theorem roundMant_bounds : roundMant m e ≤ 2 ^ 24 ∧ (roundScale m e = 0 ∨ 2 ^ 23 ≤ roundMant m e) := by
  obtain ⟨hlt, hge⟩ := roundScale_bounds hm e
  obtain ⟨hup, hdown, -⟩ := roundMant_nearest m e
  have hu := Nat.two_pow_pos (roundScale m e + 149)
  generalize 2 ^ (roundScale m e + 149) = u at *
  refine ⟨?_, hge.imp_right fun hge => ?_⟩
  · by_contra h
    have : (2 ^ 24 + 1) * u ≤ roundMant m e * u := Nat.mul_le_mul_right u (by omega)
    omega
  · by_contra h
    have : (2 * roundMant m e + 1) * u ≤ (2 ^ 24 - 1) * u := Nat.mul_le_mul_right u (by omega)
    omega

/-- Below the overflow threshold, 2^128 − 2^103 in units of 2^−298, the packed bits are those of a finite value. -/
theorem roundLow_lt (h : m * 2 ^ e < 2 ^ 426 - 2 ^ 401) : roundScale m e * 2 ^ 23 + roundMant m e < lowInf := by
  obtain ⟨-, hge⟩ := roundScale_bounds hm e
  obtain ⟨hmant, -⟩ := roundMant_bounds hm e
  obtain ⟨-, hdown, -⟩ := roundMant_nearest m e
  unfold lowInf
  obtain hq | hq | hq : roundScale m e ≤ 252 ∨ roundScale m e = 253 ∨ 254 ≤ roundScale m e := by omega
  · omega
  · rw [hq] at hdown
    omega
  · have hpow : 2 ^ 403 ≤ 2 ^ (roundScale m e + 149) := pow_le_pow_right₀ one_le_two (by omega)
    omega

/-- From the threshold on they are not. -/
theorem lowInf_le_roundLow (h : 2 ^ 426 - 2 ^ 401 ≤ m * 2 ^ e) :
    lowInf ≤ roundScale m e * 2 ^ 23 + roundMant m e := by
  obtain ⟨hlt, -⟩ := roundScale_bounds hm e
  obtain ⟨-, hmant⟩ := roundMant_bounds hm e
  obtain ⟨hup, -, htie⟩ := roundMant_nearest m e
  unfold lowInf
  obtain hq | hq | hq : roundScale m e ≤ 252 ∨ roundScale m e = 253 ∨ 254 ≤ roundScale m e := by omega
  · have hpow : 2 ^ (roundScale m e + 149) ≤ 2 ^ 401 := pow_le_pow_right₀ one_le_two (by omega)
    omega
  · rw [hq] at hup htie
    omega
  · omega

end

/-! ### Rounding gives the nearest value -/

theorem withSign_sub (s : Bool) (a b : Int) : |withSign s a - withSign s b| = |a - b| := by
  unfold withSign
  split
  · rw [neg_sub_neg, abs_sub_comm]
  · rfl

theorem withSign_withSign (s : Bool) (a : Int) : withSign s (withSign s a) = a := by
  unfold withSign
  cases s <;> simp

theorem dvd_withSign {s : Bool} {u a : Int} : u ∣ withSign s a ↔ u ∣ a := by
  unfold withSign
  split
  · exact dvd_neg
  · rfl

theorem withSign_lt {s s' : Bool} {a b : Nat} (h : a < b) : withSign s (withSign s' a) < b := by
  unfold withSign
  cases s <;> cases s' <;> simp <;> omega

section
variable (s : Bool) {m e : Nat}

/-- What rounding packs, in units of 2^−298. -/
theorem f32Units_roundPack (h : m * 2 ^ e < 2 ^ 426 - 2 ^ 401) (hm : m ≠ 0) :
    ∃ low < lowInf, roundPack s m e = f32Signed s low ∧ (roundMant m e % 2 = 0 → low % 2 = 0)
      ∧ f32Units (roundPack s m e) = withSign s (roundMant m e * 2 ^ (roundScale m e + 149) : Nat) := by
  have hlow := roundLow_lt hm e h
  obtain ⟨hmant, hscale⟩ := roundMant_bounds hm e
  have hpack := roundPack_of_ne_zero s hm e
  rw [Nat.min_eq_left hlow.le] at hpack
  refine ⟨_, hlow, hpack, by omega, ?_⟩
  rw [hpack, f32Units_f32Signed s (hlow.trans lowInf_lt), lowMag_pack hmant hscale, pow_add]
  push_cast
  rw [mul_assoc]

/-- A finite value is a multiple of the place that rounding keeps, or it lies below the binade of the exact magnitude. -/
theorem f32Units_dvd_or_lt {w : F32} (hm : m ≠ 0) :
    ((2 ^ (roundScale m e + 149) : Nat) : Int) ∣ withSign s (f32Units w)
      ∨ (2 ^ 23 * 2 ^ (roundScale m e + 149) ≤ m * 2 ^ e
        ∧ withSign s (f32Units w) < (2 ^ 23 * 2 ^ (roundScale m e + 149) : Nat)) := by
  obtain ⟨s', low, hlow, rfl⟩ := exists_f32Signed w
  obtain ⟨-, hmant, -⟩ := low_eq_pack low
  obtain ⟨-, hge⟩ := roundScale_bounds hm e
  have hunits : ((lowMant low * 2 ^ lowScale low : Nat) : Int) * 2 ^ 149 = (lowMant low * 2 ^ (lowScale low + 149) : Nat) := by
    rw [pow_add]
    push_cast
    rw [mul_assoc]
  rw [f32Units_f32Signed s' hlow, hunits]
  by_cases hq : roundScale m e ≤ lowScale low
  · refine .inl (dvd_withSign.2 (dvd_withSign.2 (Int.natCast_dvd_natCast.2 ?_)))
    exact Dvd.dvd.mul_left (Nat.pow_dvd_pow 2 (by omega)) _
  · refine .inr ⟨by omega, withSign_lt ?_⟩
    calc lowMant low * 2 ^ (lowScale low + 149) < 2 ^ 24 * 2 ^ (lowScale low + 149) :=
          Nat.mul_lt_mul_of_pos_right hmant (Nat.two_pow_pos _)
      _ = 2 ^ 23 * 2 ^ (lowScale low + 150) := by rw [pow_succ _ (lowScale low + 149)]; ring
      _ ≤ _ := Nat.mul_le_mul_left _ (Nat.pow_le_pow_right (by decide) (by omega))

end

/-- A finite pattern is nearest to a rational: no finite value is nearer, and the last bit of the pattern is 0 where another is
as near. -/
def IsNearest (r : F32) (x : ℚ) : Prop :=
  isFinite r = true ∧ ∀ w, isFinite w = true → |f32Value r - x| ≤ |f32Value w - x|
    ∧ (f32Value w ≠ f32Value r → |f32Value w - x| = |f32Value r - x| → r.getLsbD 0 = false)

/-- Distances between values, in units of 2^−298. -/
theorem abs_f32Value_sub (v : F32) (x : Int) :
    |f32Value v - x * f32Unit| = (|f32Units v - x| : Int) * f32Unit := by
  rw [f32Value_eq_units, ← sub_mul, abs_mul, abs_of_pos f32Unit_pos]
  push_cast
  rfl

theorem isNearest_of_units {r : F32} {x : Int} (hr : isFinite r = true)
    (h : ∀ w, isFinite w = true → |f32Units r - x| ≤ |f32Units w - x|
      ∧ (f32Units w ≠ f32Units r → |f32Units w - x| = |f32Units r - x| → r.getLsbD 0 = false)) :
    IsNearest r (x * f32Unit) := by
  refine ⟨hr, fun w hw => ?_⟩
  obtain ⟨hle, htie⟩ := h w hw
  rw [abs_f32Value_sub, abs_f32Value_sub]
  refine ⟨mul_le_mul_of_nonneg_right (Int.cast_le.2 hle) f32Unit_pos.le, fun hne heq => htie (fun h => hne ?_) ?_⟩
  · rw [f32Value_eq_units, f32Value_eq_units, h]
  · exact Int.cast_injective (mul_right_cancel₀ f32Unit_pos.ne' heq)

/-- Rounding gives the nearest value, ties to even. -/
theorem roundPack_isNearest (s : Bool) {m e : Nat} (h : m * 2 ^ e < 2 ^ 426 - 2 ^ 401) :
    IsNearest (roundPack s m e) ((withSign s (m * 2 ^ e : Nat) : Int) * f32Unit) := by
  by_cases hm : m = 0
  · subst hm
    have hzero : f32Units (f32Signed s 0) = 0 := by
      rw [f32Units_f32Signed s (by decide)]
      cases s <;> rfl
    rw [roundPack_zero, Nat.zero_mul, show withSign s (0 : Nat) = 0 by cases s <;> rfl]
    refine isNearest_of_units (isFinite_f32Signed s (by decide)) fun w _ => ?_
    rw [hzero, sub_self, sub_zero, abs_zero]
    exact ⟨abs_nonneg _, fun hne heq => absurd (abs_eq_zero.1 heq) hne⟩
  · obtain ⟨low, hlow, hpack, heven, hunits⟩ := f32Units_roundPack s h hm
    have hnear := roundMant_nearest m e
    have hu := Nat.two_pow_pos (roundScale m e + 149)
    have hbit : roundMant m e % 2 = 0 → (roundPack s m e).getLsbD 0 = false := fun hk => by
      rw [hpack, getLsbD_zero_f32Signed s (hlow.trans lowInf_lt), heven hk]
      rfl
    refine isNearest_of_units ?_ fun w _ => ?_
    · rw [hpack, isFinite_f32Signed s (hlow.trans lowInf_lt)]
      exact decide_eq_true hlow
    · rw [hunits, withSign_sub, ← withSign_withSign s (f32Units w), withSign_sub]
      obtain hdvd | ⟨hbinade, hbelow⟩ := f32Units_dvd_or_lt (w := w) s hm
      · obtain ⟨hle, htie⟩ := hnear.dist_le hu hdvd
        exact ⟨hle, fun hne heq => hbit (htie (fun h => hne (congrArg (withSign s) h)) heq)⟩
      · obtain ⟨hle, -⟩ := hnear.dist_le hu (w := (2 ^ 23 * 2 ^ (roundScale m e + 149) : Nat))
          (Int.natCast_dvd_natCast.2 (Dvd.intro_left _ rfl))
        have hlt : |((roundMant m e * 2 ^ (roundScale m e + 149) : Nat) : Int) - (m * 2 ^ e : Nat)|
            < |withSign s (f32Units w) - (m * 2 ^ e : Nat)| := by
          refine hle.trans_lt ?_
          rw [abs_of_nonpos (by omega), abs_of_nonpos (by omega)]
          omega
        exact ⟨hlt.le, fun _ heq => absurd heq hlt.ne'⟩

/-- From the threshold on rounding gives an infinity. -/
theorem roundPack_overflow (s : Bool) {m e : Nat} (h : 2 ^ 426 - 2 ^ 401 ≤ m * 2 ^ e) :
    roundPack s m e = f32Signed s lowInf := by
  have hm : m ≠ 0 := by
    rintro rfl
    omega
  rw [roundPack_of_ne_zero s hm, Nat.min_eq_right (lowInf_le_roundLow hm e h)]

/-- Rounding keeps a magnitude whose significant bits, 24 at most, lie above the last place of a subnormal. -/
theorem roundPack_exact (s : Bool) {m e j : Nat} (h : m * 2 ^ e < 2 ^ 426 - 2 ^ 401) (hm : m ≠ 0) (he : 149 ≤ j + e)
    (hlt : m < 2 ^ (24 + j)) (hdvd : 2 ^ j ∣ m) : f32Units (roundPack s m e) = withSign s (m * 2 ^ e : Nat) := by
  obtain ⟨-, -, -, -, hunits⟩ := f32Units_roundPack s h hm
  have hlog : m.log2 < 24 + j := (Nat.log2_lt hm).2 hlt
  have hplace : 2 ^ (roundScale m e + 149) ∣ m * 2 ^ e := by
    refine (Nat.pow_dvd_pow 2 (show roundScale m e + 149 ≤ j + e by unfold roundScale; omega)).trans ?_
    rw [pow_add]
    exact Nat.mul_dvd_mul_right hdvd _
  obtain ⟨hle, -⟩ := (roundMant_nearest m e).dist_le (Nat.two_pow_pos _) (Int.natCast_dvd_natCast.2 hplace)
  rw [sub_self, abs_zero] at hle
  rw [hunits, sub_eq_zero.1 (abs_nonpos_iff.1 hle)]

/-! ### The product (R283) -/

theorem withSign_mul (s s' : Bool) (a b : Int) : withSign s a * withSign s' b = withSign (s != s') (a * b) := by
  unfold withSign
  cases s <;> cases s' <;> simp

theorem withSign_mul_right (s : Bool) (a b : Int) : withSign s a * b = withSign s (a * b) := by
  unfold withSign
  cases s <;> simp

theorem f32Int_eq (v : F32) : f32Int v = withSign (f32Sign v) (f32Mant v) := rfl

/-- A value in units of 2^−149, the last place of the subnormals. -/
theorem f32Value_eq_int (v : F32) : f32Value v = (f32Int v * 2 ^ f32Scale v : Int) * (2 ^ 149 * f32Unit) := by
  rw [f32Value_eq_units, f32Units, pow_add]
  push_cast
  ring

theorem f32Value_mul (a b : F32) : f32Value a * f32Value b
    = (withSign (f32Sign a != f32Sign b) (f32Mant a * f32Mant b * 2 ^ (f32Scale a + f32Scale b) : Nat) : Int)
      * f32Unit := by
  have hsquare : (2 ^ 149 * f32Unit) * (2 ^ 149 * f32Unit) = f32Unit := by
    have hone : (2 : ℚ) ^ (149 + 149) * f32Unit = 1 := (two_pow_mul_f32Unit 0).trans (pow_zero 2)
    rw [mul_mul_mul_comm, ← pow_add, ← mul_assoc, hone, one_mul]
  have hint : f32Int a * 2 ^ f32Scale a * (f32Int b * 2 ^ f32Scale b)
      = withSign (f32Sign a != f32Sign b) (f32Mant a * f32Mant b * 2 ^ (f32Scale a + f32Scale b) : Nat) := by
    rw [mul_mul_mul_comm, f32Int_eq, f32Int_eq, withSign_mul, ← pow_add, withSign_mul_right]
    push_cast
    rfl
  rw [f32Value_eq_int, f32Value_eq_int, mul_mul_mul_comm, hsquare, ← hint]
  simp only [Int.cast_mul]

theorem abs_withSign (s : Bool) (n : Nat) : |withSign s n| = n := by
  unfold withSign
  cases s <;> simp

/-- The overflow threshold in units of 2^−298. -/
theorem threshold_units : (2 ^ 128 - 2 ^ 103 : ℚ) = ((2 ^ 426 - 2 ^ 401 : Nat) : ℚ) * f32Unit := by
  rw [← two_pow_mul_f32Unit 128, ← two_pow_mul_f32Unit 103, ← sub_mul,
    Nat.cast_sub (pow_le_pow_right₀ one_le_two (by decide)), Nat.cast_pow, Nat.cast_pow]
  rfl

theorem abs_units_lt_threshold {s : Bool} {n : Nat} :
    |((withSign s n : Int) : ℚ) * f32Unit| < 2 ^ 128 - 2 ^ 103 ↔ n < 2 ^ 426 - 2 ^ 401 := by
  rw [threshold_units, abs_mul, abs_of_pos f32Unit_pos, ← Int.cast_abs, abs_withSign, mul_lt_mul_iff_left₀ f32Unit_pos,
    Int.cast_natCast, Nat.cast_lt]

/-- Settles O30: the product is rounded once from its exact value (`f32Value_mul`), by `roundPack_isNearest` and
`roundPack_overflow`. -/
theorem theProductIsTheNearestFloat : Obligations.TheProductIsTheNearestFloat := by
  unfold Obligations.TheProductIsTheNearestFloat
  intro p a b hp ha hb
  rw [fmul_ieee hp, ieeeMul_of_finite ha hb, f32Value_mul, ← not_lt, abs_units_lt_threshold]
  refine ⟨fun h => roundPack_isNearest _ h, fun h => ?_⟩
  rw [roundPack_overflow _ (Nat.le_of_not_lt h)]
  cases f32Sign a <;> cases f32Sign b <;> rfl

end Sys2Proof.Machine
end

section
/-! SUPPORT. The sum (spec/45_tile_step.md R284) and the candidates of `ROUND_FN` (R285): both round an exact integer multiple of a
power of two once. -/

namespace Sys2Proof.Machine

/-! ### The branches of the sum -/

/-- The operands whose sum is a NaN. -/
def addInvalid (a b : F32) : Bool := isNaN a || isNaN b || (isInf a && isInf b && f32Sign a != f32Sign b)

/-- The smaller of the two scales, at which the significands are added. -/
def addScale (a b : F32) : Nat := min (f32Scale a) (f32Scale b)

/-- The exact sum at that scale. -/
def addInt (a b : F32) : Int :=
  f32Int a * 2 ^ (f32Scale a - addScale a b) + f32Int b * 2 ^ (f32Scale b - addScale a b)

/-- The sign of a finite sum: −0.0 only from two negative zeros. -/
def addSign (a b : F32) : Bool := if addInt a b = 0 then f32Sign a && f32Sign b else decide (addInt a b < 0)

theorem addInvalid_comm (a b : F32) : addInvalid a b = addInvalid b a := by
  unfold addInvalid
  rw [bne_comm]
  ac_rfl

theorem addScale_comm (a b : F32) : addScale a b = addScale b a := Nat.min_comm ..

theorem addInt_comm (a b : F32) : addInt a b = addInt b a := by
  rw [addInt, addInt, addScale_comm, Int.add_comm]

theorem addSign_comm (a b : F32) : addSign a b = addSign b a := by
  rw [addSign, addSign, addInt_comm, Bool.and_comm]

section
variable {a b : F32}

theorem addInvalid_iff : addInvalid a b = true ↔
    isNaN a = true ∨ isNaN b = true ∨ (isInf a = true ∧ isInf b = true ∧ f32Sign a ≠ f32Sign b) := by
  simp only [addInvalid, Bool.or_eq_true, Bool.and_eq_true, or_assoc, and_assoc, bne_iff_ne]

theorem ieeeAdd_of_invalid (h : addInvalid a b = true) : ieeeAdd a b = mkNaN (Config.addNan a b) := if_pos h

theorem ieeeAdd_of_isInf_left (h : addInvalid a b = false) (ha : isInf a = true) : ieeeAdd a b = a :=
  (if_neg (by rw [Bool.not_eq_true]; exact h)).trans (if_pos ha)

theorem ieeeAdd_of_isInf_right (h : addInvalid a b = false) (ha : isInf a = false) (hb : isInf b = true) :
    ieeeAdd a b = b :=
  (if_neg (by rw [Bool.not_eq_true]; exact h)).trans ((if_neg (by simp [ha])).trans (if_pos hb))

theorem ieeeAdd_of_valid (h : addInvalid a b = false) (ha : isInf a = false) (hb : isInf b = false) :
    ieeeAdd a b = roundPack (addSign a b) (addInt a b).natAbs (addScale a b + 149) := by
  have hround : ieeeAdd a b = if addInt a b = 0 then f32Signed (f32Sign a && f32Sign b) 0
      else roundPack (decide (addInt a b < 0)) (addInt a b).natAbs (addScale a b + 149) :=
    (if_neg (by rw [Bool.not_eq_true]; exact h)).trans ((if_neg (by simp [ha])).trans (if_neg (by simp [hb])))
  rw [hround, addSign]
  split
  next hzero => rw [hzero, Int.natAbs_zero, roundPack_zero]
  next => rfl

theorem addInvalid_of_finite (ha : isFinite a = true) (hb : isFinite b = true) : addInvalid a b = false := by
  simp [addInvalid, isNaN_of_finite ha, isNaN_of_finite hb, isInf_of_finite ha]

theorem ieeeAdd_of_finite (ha : isFinite a = true) (hb : isFinite b = true) :
    ieeeAdd a b = roundPack (addSign a b) (addInt a b).natAbs (addScale a b + 149) :=
  ieeeAdd_of_valid (addInvalid_of_finite ha hb) (isInf_of_finite ha) (isInf_of_finite hb)

theorem ieeeAdd_isNaN : isNaN (ieeeAdd a b) = addInvalid a b := by
  cases h : addInvalid a b with
  | true => rw [ieeeAdd_of_invalid h, mkNaN_isNaN]
  | false =>
    cases ha : isInf a with
    | true => rw [ieeeAdd_of_isInf_left h ha, isNaN_of_isInf ha]
    | false =>
      cases hb : isInf b with
      | true => rw [ieeeAdd_of_isInf_right h ha hb, isNaN_of_isInf hb]
      | false => rw [ieeeAdd_of_valid h ha hb, roundPack_isNaN]

/-- Two infinities whose sum is no NaN are the same. -/
theorem eq_of_isInf_of_valid (h : addInvalid a b = false) (ha : isInf a = true) (hb : isInf b = true) : a = b := by
  have hsign : f32Sign a = f32Sign b := by
    by_contra hne
    exact Bool.false_ne_true (h.symm.trans (addInvalid_iff.2 (.inr (.inr ⟨ha, hb, hne⟩))))
  rw [eq_of_isInf ha, eq_of_isInf hb, hsign]

theorem ieeeAdd_comm (h : addInvalid a b = false) : ieeeAdd a b = ieeeAdd b a := by
  have h' : addInvalid b a = false := (addInvalid_comm b a).trans h
  cases ha : isInf a <;> cases hb : isInf b
  · rw [ieeeAdd_of_valid h ha hb, ieeeAdd_of_valid h' hb ha, addSign_comm, addInt_comm, addScale_comm]
  · rw [ieeeAdd_of_isInf_right h ha hb, ieeeAdd_of_isInf_left h' hb]
  · rw [ieeeAdd_of_isInf_left h ha, ieeeAdd_of_isInf_right h' hb ha]
  · rw [eq_of_isInf_of_valid h ha hb]

end

/-! ### The exact sum -/

/-- A number has its sign and its magnitude; a zero any sign. -/
theorem withSign_natAbs {s : Bool} {z : Int} (h : z ≠ 0 → s = decide (z < 0)) : withSign s z.natAbs = z := by
  by_cases hz : z = 0
  · subst hz
    cases s <;> rfl
  · rw [h hz, withSign]
    split
    next hneg => have := of_decide_eq_true hneg; omega
    next hneg => have : ¬ z < 0 := by simpa using hneg
                 omega

theorem addInt_mul_pow (a b : F32) :
    addInt a b * 2 ^ addScale a b = f32Int a * 2 ^ f32Scale a + f32Int b * 2 ^ f32Scale b := by
  have ha : addScale a b ≤ f32Scale a := Nat.min_le_left _ _
  have hb : addScale a b ≤ f32Scale b := Nat.min_le_right _ _
  rw [addInt, add_mul, mul_assoc, mul_assoc, ← pow_add, ← pow_add, Nat.sub_add_cancel ha, Nat.sub_add_cancel hb]

theorem f32Value_add (a b : F32) : f32Value a + f32Value b
    = (withSign (addSign a b) ((addInt a b).natAbs * 2 ^ (addScale a b + 149) : Nat) : Int) * f32Unit := by
  have hsign : addInt a b ≠ 0 → addSign a b = decide (addInt a b < 0) := fun h => if_neg h
  have hint : withSign (addSign a b) ((addInt a b).natAbs * 2 ^ (addScale a b + 149) : Nat)
      = (f32Int a * 2 ^ f32Scale a + f32Int b * 2 ^ f32Scale b) * 2 ^ 149 := by
    rw [← addInt_mul_pow, mul_assoc, ← pow_add, Nat.cast_mul, ← withSign_mul_right, withSign_natAbs hsign]
    push_cast
    rfl
  rw [f32Value_eq_int, f32Value_eq_int, hint, ← add_mul, ← Int.cast_add, ← mul_assoc, Int.cast_mul _ (2 ^ 149), Int.cast_pow,
    Int.cast_ofNat]

theorem le_withSign {s : Bool} {n k : Nat} (hk : 0 < k) : (k : Int) ≤ withSign s n ↔ s = false ∧ k ≤ n := by
  unfold withSign
  cases s
  · simp
  · simp only [if_true, reduceCtorEq, false_and, iff_false]
    omega

theorem withSign_le_neg {s : Bool} {n k : Nat} (hk : 0 < k) : withSign s n ≤ -k ↔ s = true ∧ k ≤ n := by
  unfold withSign
  cases s
  · simp only [Bool.false_eq_true, if_false, false_and, iff_false]
    omega
  · simp

theorem threshold_pos : 0 < 2 ^ 426 - 2 ^ 401 := Nat.sub_pos_of_lt (pow_lt_pow_right₀ one_lt_two (by decide))

theorem threshold_le_units {s : Bool} {n : Nat} :
    2 ^ 128 - 2 ^ 103 ≤ ((withSign s n : Int) : ℚ) * f32Unit ↔ s = false ∧ 2 ^ 426 - 2 ^ 401 ≤ n := by
  rw [threshold_units, mul_le_mul_iff_left₀ f32Unit_pos, ← Int.cast_natCast (2 ^ 426 - 2 ^ 401), Int.cast_le,
    le_withSign threshold_pos]

theorem units_le_neg_threshold {s : Bool} {n : Nat} :
    ((withSign s n : Int) : ℚ) * f32Unit ≤ -(2 ^ 128 - 2 ^ 103) ↔ s = true ∧ 2 ^ 426 - 2 ^ 401 ≤ n := by
  rw [threshold_units, ← neg_mul, mul_le_mul_iff_left₀ f32Unit_pos, ← Int.cast_natCast (2 ^ 426 - 2 ^ 401), ← Int.cast_neg,
    Int.cast_le, withSign_le_neg threshold_pos]

/-- Settles O31: the sum is rounded once from its exact value (`f32Value_add`), by `roundPack_isNearest` and
`roundPack_overflow`. -/
theorem theSumIsTheNearestFloat : Obligations.TheSumIsTheNearestFloat := by
  unfold Obligations.TheSumIsTheNearestFloat
  intro p a b hp ha hb
  rw [fadd_ieee hp, ieeeAdd_of_finite ha hb, f32Value_add, abs_units_lt_threshold, threshold_le_units, units_le_neg_threshold]
  refine ⟨fun h => roundPack_isNearest _ h, fun ⟨hs, h⟩ => ?_, fun ⟨hs, h⟩ => ?_⟩
  · rw [roundPack_overflow _ h, hs]
    rfl
  · rw [roundPack_overflow _ h, hs]
    rfl

/-! ### Special sums (R284, R331) -/

/-- The pattern with the other sign. -/
theorem f32_flip (v : F32) :
    f32Sign (v ^^^ 0x80000000#32) = !f32Sign v ∧ f32Exp (v ^^^ 0x80000000#32) = f32Exp v
      ∧ f32Frac (v ^^^ 0x80000000#32) = f32Frac v := by
  refine ⟨?_, ?_, ?_⟩
  · rw [f32Sign, BitVec.getLsbD_xor, show (0x80000000#32).getLsbD 31 = true by decide, Bool.xor_true, f32Sign]
  · rw [f32Exp, BitVec.extractLsb'_xor, show (0x80000000#32).extractLsb' 23 8 = 0#8 by decide, BitVec.xor_zero, f32Exp]
  · rw [f32Frac, BitVec.extractLsb'_xor, show (0x80000000#32).extractLsb' 0 23 = 0#23 by decide, BitVec.xor_zero, f32Frac]

/-- A finite value and its negation add to +0.0. -/
theorem ieeeAdd_flip {a : F32} (ha : isFinite a = true) : ieeeAdd a (a ^^^ 0x80000000#32) = F32.posZero := by
  obtain ⟨hsign, hexp, hfrac⟩ := f32_flip a
  have hfin : isFinite (a ^^^ 0x80000000#32) = true := by rwa [isFinite, hexp]
  have hmant : f32Mant (a ^^^ 0x80000000#32) = f32Mant a := by rw [f32Mant, hexp, hfrac, f32Mant]
  have hscale : f32Scale (a ^^^ 0x80000000#32) = f32Scale a := by rw [f32Scale, hexp, f32Scale]
  have hint : f32Int (a ^^^ 0x80000000#32) = -f32Int a := by
    rw [f32Int, hsign, hmant, f32Int]
    cases f32Sign a <;> simp
  have hsum : addInt a (a ^^^ 0x80000000#32) = 0 := by
    rw [addInt, hint, hscale]
    ring
  have hpos : addSign a (a ^^^ 0x80000000#32) = false := by
    rw [addSign, if_pos hsum, hsign, Bool.and_not_self]
  rw [ieeeAdd_of_finite ha hfin, hsum, hpos, Int.natAbs_zero, roundPack_zero]
  rfl

/-- The magnitude of a finite value lies below 2^128 − 2^104. -/
theorem lowMag_le {low : Nat} (h : low < lowInf) : lowMant low * 2 ^ lowScale low ≤ (2 ^ 24 - 1) * 2 ^ 253 := by
  obtain ⟨-, hmant, -⟩ := low_eq_pack low
  have hscale : lowScale low ≤ 253 := by
    unfold lowInf at h
    unfold lowScale
    omega
  exact Nat.mul_le_mul (by omega) (pow_le_pow_right₀ one_le_two hscale)

/-- A pattern is known by its sign and its magnitude. -/
theorem eq_of_f32Units {v w : F32} (hs : f32Sign v = f32Sign w) (hu : f32Units v = f32Units w) : v = w := by
  obtain ⟨s, low, hlow, rfl⟩ := exists_f32Signed v
  obtain ⟨s', low', hlow', rfl⟩ := exists_f32Signed w
  rw [f32Sign_f32Signed s hlow, f32Sign_f32Signed s' hlow'] at hs
  subst hs
  rw [f32Units_f32Signed s hlow, f32Units_f32Signed s hlow'] at hu
  have hmag := congrArg (withSign s) hu
  rw [withSign_withSign, withSign_withSign] at hmag
  rw [lowMag_strictMono.injective (Nat.cast_injective (mul_right_cancel₀ (by positivity) hmag))]

theorem natAbs_f32Int (v : F32) : (f32Int v).natAbs = f32Mant v := by
  unfold f32Int
  split <;> simp

/-- The sum with +0.0 is exact. -/
theorem addInt_posZero (a : F32) : addInt a F32.posZero = f32Int a * 2 ^ f32Scale a ∧ addScale a F32.posZero = 0 := by
  have hscale : addScale a F32.posZero = 0 := Nat.min_eq_right (Nat.zero_le _)
  refine ⟨?_, hscale⟩
  rw [addInt, hscale, Nat.sub_zero, show f32Int F32.posZero = 0 by decide, zero_mul, add_zero]

/-- Rounding keeps a finite value. -/
theorem roundPack_f32Int {a : F32} (ha : isFinite a = true) (hm : f32Mant a ≠ 0) :
    roundPack (f32Sign a) (f32Mant a * 2 ^ f32Scale a) 149 = a := by
  obtain ⟨s, low, hlow, rfl⟩ := exists_f32Signed a
  rw [isFinite_f32Signed s hlow, decide_eq_true_iff] at ha
  obtain ⟨-, hmant, -⟩ := low_eq_pack low
  have hmag := lowMag_le ha
  rw [f32Mant_f32Signed s hlow] at hm
  rw [f32Sign_f32Signed s hlow, f32Mant_f32Signed s hlow, f32Scale_f32Signed s hlow]
  refine eq_of_f32Units ?_ ?_
  · rw [roundPack_sign, f32Sign_f32Signed s hlow]
  · rw [roundPack_exact s (j := lowScale low) (by omega) (Nat.mul_ne_zero hm (Nat.two_pow_pos _).ne') (by omega) ?_
      (Nat.dvd_mul_left _ _), f32Units_f32Signed s hlow]
    · push_cast
      rfl
    · rw [pow_add]
      exact Nat.mul_lt_mul_of_pos_right hmant (Nat.two_pow_pos _)

theorem eq_zero_of_f32Mant {a : F32} (hm : f32Mant a = 0) : a = f32Signed (f32Sign a) 0 := by
  obtain ⟨s, low, hlow, rfl⟩ := exists_f32Signed a
  obtain ⟨hpack, -, hscale⟩ := low_eq_pack low
  rw [f32Mant_f32Signed s hlow] at hm
  obtain rfl : low = 0 := by omega
  rw [f32Sign_f32Signed s hlow]

/-- The sign of an exact sum with +0.0. -/
theorem addSign_posZero {a : F32} (hm : f32Mant a ≠ 0) : addSign a F32.posZero = f32Sign a := by
  obtain ⟨hsum, -⟩ := addInt_posZero a
  have hpow : (0 : Int) < 2 ^ f32Scale a := by positivity
  have hmant : (0 : Int) < f32Mant a := by omega
  rw [addSign, hsum, f32Int]
  cases f32Sign a
  · have hpos : (0 : Int) < f32Mant a * 2 ^ f32Scale a := mul_pos hmant hpow
    simp [hpos.ne', hpos.le]
  · have hneg : -(f32Mant a : Int) * 2 ^ f32Scale a < 0 := mul_neg_of_neg_of_pos (neg_neg_of_pos hmant) hpow
    rw [if_pos rfl, if_neg hneg.ne, decide_eq_true hneg]

/-- Adding +0.0 changes nothing but −0.0. -/
theorem ieeeAdd_posZero {a : F32} (ha : isNaN a = false) :
    ieeeAdd a F32.posZero = if a = 0x80000000#32 then F32.posZero else a := by
  by_cases hm : f32Mant a = 0
  · rw [eq_zero_of_f32Mant hm]
    cases f32Sign a <;> decide
  · rw [if_neg fun h : a = 0x80000000#32 => hm (by rw [h]; decide)]
    cases hinf : isInf a with
    | true =>
      have hvalid : addInvalid a F32.posZero = false := by
        rw [addInvalid, ha, hinf, show isNaN F32.posZero = false by decide, show isInf F32.posZero = false by decide]
        rfl
      exact ieeeAdd_of_isInf_left hvalid hinf
    | false =>
      have hfin : isFinite a = true := by rw [isFinite_eq, ha, hinf]; rfl
      obtain ⟨hsum, hscale⟩ := addInt_posZero a
      rw [ieeeAdd_of_finite hfin (by decide), hsum, hscale, addSign_posZero hm, Int.natAbs_mul, natAbs_f32Int, Int.natAbs_pow]
      exact roundPack_f32Int hfin hm

/-- Settles O29: by the branches of the sum, and the exact sums `ieeeAdd_flip` and `ieeeAdd_posZero`. -/
theorem theSpecialSums : Obligations.TheSpecialSums := by
  unfold Obligations.TheSpecialSums
  intro p a b hp
  simp only [fadd_ieee hp, ieeeAdd_isNaN]
  refine ⟨addInvalid_iff, ieeeAdd_comm, fun ha hb => ieeeAdd_of_isInf_left ?_ ha, ieeeAdd_flip, ieeeAdd_posZero⟩
  simp [addInvalid, isNaN_of_isInf ha, isNaN_of_finite hb, isInf_of_finite hb]

/-! ### The candidates of `ROUND_FN` (R285) -/

/-- Half the unit bounds the distance, and makes `k` even where it is reached. -/
theorem NearestMultiple.abs_le {x u k : Nat} (h : NearestMultiple x u k) :
    2 * |(x : Int) - (k * u : Nat)| ≤ u ∧ (2 * |(x : Int) - (k * u : Nat)| = u → k % 2 = 0) := by
  obtain ⟨hup, hdown, htie⟩ := h
  have hmid : (2 * k + 1) * u = 2 * (k * u) + u := by ring
  rw [hmid] at hup htie
  obtain ⟨e, he⟩ | ⟨e, he⟩ := abs_cases ((x : Int) - (k * u : Nat)) <;> rw [e] <;> omega

theorem f32Scale_of_not_finite {v : F32} (h : isFinite v = false) : f32Scale v = 254 := by
  have hexp : f32Exp v = 255 := by simpa [isFinite] using h
  rw [f32Scale, hexp]
  rfl

theorem rneInt_of_large {v : F32} (h : 149 ≤ f32Scale v) : rneInt v = v := if_pos h

/-- A value whose last place is 1 or more is an integer. -/
theorem f32Value_of_large {v : F32} (h : 149 ≤ f32Scale v) :
    f32Value v = (f32Int v * 2 ^ (f32Scale v - 149) : Int) := by
  obtain ⟨k, hk⟩ := Nat.exists_eq_add_of_le' h
  have hone : (2 : ℚ) ^ (149 + 149) * f32Unit = 1 := (two_pow_mul_f32Unit 0).trans (pow_zero 2)
  rw [f32Value_eq_int, hk, Nat.add_sub_cancel, pow_add, ← mul_assoc (f32Int v), Int.cast_mul (f32Int v * 2 ^ k),
    Int.cast_pow, Int.cast_ofNat, mul_assoc, ← mul_assoc (2 ^ 149 : ℚ), ← pow_add, hone, mul_one]

section
variable {v : F32} (h : f32Scale v < 149)
include h

theorem rneInt_of_small :
    rneInt v = roundPack (f32Sign v) (rneShift (f32Mant v) (149 - f32Scale v)) 298 := if_neg (Nat.not_le.2 h)

/-- The significand rounded to an integer, in units of 2^−298. -/
theorem rneShift_f32Mant_nearest :
    NearestMultiple (f32Mant v * 2 ^ (f32Scale v + 149)) (2 ^ 298) (rneShift (f32Mant v) (149 - f32Scale v)) := by
  have hnear := (rneShift_nearest (f32Mant v) (149 - f32Scale v)).scale (Nat.two_pow_pos (f32Scale v + 149))
  rwa [← pow_add, show 149 - f32Scale v + (f32Scale v + 149) = 298 by omega] at hnear

theorem rneShift_f32Mant_lt : rneShift (f32Mant v) (149 - f32Scale v) < 2 ^ 24 := by
  obtain ⟨s, low, hlow, rfl⟩ := exists_f32Signed v
  obtain ⟨-, hmant, -⟩ := low_eq_pack low
  rw [f32Mant_f32Signed s hlow, f32Scale_f32Signed s hlow] at *
  obtain ⟨-, hdown, -⟩ := rneShift_nearest (lowMant low) (149 - lowScale low)
  have hpow : 2 ^ 1 ≤ 2 ^ (149 - lowScale low) := Nat.pow_le_pow_right (by decide) (by omega)
  by_contra hge
  have hbig : 2 ^ 24 * 2 ^ (149 - lowScale low)
      ≤ rneShift (lowMant low) (149 - lowScale low) * 2 ^ (149 - lowScale low) := Nat.mul_le_mul_right _ (by omega)
  omega

/-- Rounding to an integer gives that integer. -/
theorem f32Units_rneInt : isFinite (rneInt v) = true
    ∧ f32Units (rneInt v) = withSign (f32Sign v) (rneShift (f32Mant v) (149 - f32Scale v) * 2 ^ 298 : Nat) := by
  have hlt := rneShift_f32Mant_lt h
  have hrange : rneShift (f32Mant v) (149 - f32Scale v) * 2 ^ 298 < 2 ^ 426 - 2 ^ 401 := by omega
  obtain ⟨hfin, -⟩ := roundPack_isNearest (f32Sign v) hrange
  rw [rneInt_of_small h]
  refine ⟨hfin, ?_⟩
  by_cases hzero : rneShift (f32Mant v) (149 - f32Scale v) = 0
  · rw [hzero, roundPack_zero, f32Units_f32Signed _ (by decide), Nat.zero_mul]
    rfl
  · exact roundPack_exact (f32Sign v) (j := 0) hrange hzero (by decide) hlt (one_dvd _)

/-- The nearest integer, ties to even. -/
theorem rneInt_nearest : ∃ n : Int, f32Value (rneInt v) = n ∧ |f32Value v - n| ≤ 1 / 2
    ∧ (|f32Value v - n| = 1 / 2 → n % 2 = 0) := by
  obtain ⟨-, hunits⟩ := f32Units_rneInt h
  obtain ⟨hle, htie⟩ := (rneShift_f32Mant_nearest h).abs_le
  generalize rneShift (f32Mant v) (149 - f32Scale v) = k at hunits hle htie
  have hone : (2 : ℚ) ^ 298 * f32Unit = 1 := (two_pow_mul_f32Unit 0).trans (pow_zero 2)
  have hvalue : ((withSign (f32Sign v) k : Int) : ℚ) = (withSign (f32Sign v) (k * 2 ^ 298 : Nat) : Int) * f32Unit := by
    rw [Nat.cast_mul, ← withSign_mul_right, Int.cast_mul, mul_assoc, Nat.cast_pow, Int.cast_pow]
    exact (mul_one _).symm.trans (congrArg _ hone.symm)
  have hunitsV : f32Units v = withSign (f32Sign v) (f32Mant v * 2 ^ (f32Scale v + 149) : Nat) := by
    rw [f32Units, f32Int_eq, withSign_mul_right]
    push_cast
    rfl
  have hdist : 2 * |f32Value v - (withSign (f32Sign v) k : Int)|
      = (2 * |((f32Mant v * 2 ^ (f32Scale v + 149) : Nat) : Int) - (k * 2 ^ 298 : Nat)| : Int) * f32Unit := by
    rw [hvalue, abs_f32Value_sub, hunitsV, withSign_sub, Int.cast_mul, mul_assoc]
    rfl
  have hhalf : ((2 ^ 298 : Nat) : Int) * f32Unit = 1 := by
    rw [Int.cast_natCast, Nat.cast_pow]
    exact hone
  refine ⟨withSign (f32Sign v) k, ?_, ?_, fun heq => ?_⟩
  · rw [f32Value_eq_units, hunits, hvalue]
  · have hmono := mul_le_mul_of_nonneg_right (Int.cast_le (R := ℚ).2 hle) f32Unit_pos.le
    rw [← hdist, hhalf] at hmono
    linarith
  · have heven : k % 2 = 0 := htie (Int.cast_injective (α := ℚ) (mul_right_cancel₀ f32Unit_pos.ne' (by
      rw [← hdist, hhalf, heq]
      norm_num)))
    unfold withSign
    split <;> omega

end

/-- Settles O27: a large or special operand is returned (`rneInt_of_large`), any other becomes its nearest integer
(`rneInt_nearest`). -/
theorem theCandidatesOfTheRoundingFunction : Obligations.TheCandidatesOfTheRoundingFunction := by
  unfold Obligations.TheCandidatesOfTheRoundingFunction
  intro v
  refine ⟨rfl, fun hf => ?special, ?sign, fun hf => ?finite⟩
  case special =>
    have hscale := f32Scale_of_not_finite hf
    exact rneInt_of_large (by omega)
  case sign =>
    by_cases h : 149 ≤ f32Scale v
    · exact congrArg f32Sign (rneInt_of_large h)
    · exact (congrArg f32Sign (rneInt_of_small (Nat.not_le.1 h))).trans (roundPack_sign _ _ _)
  case finite =>
    show isFinite (rneInt v) = true ∧ ∃ n : Int, f32Value (rneInt v) = n ∧ _
    by_cases h : 149 ≤ f32Scale v
    · rw [rneInt_of_large h]
      refine ⟨hf, _, f32Value_of_large h, ?_⟩
      rw [f32Value_of_large h, sub_self, abs_zero]
      exact ⟨by norm_num, fun heq => absurd heq (by norm_num)⟩
    · obtain ⟨hfin, -⟩ := f32Units_rneInt (Nat.not_le.1 h)
      exact ⟨hfin, rneInt_nearest (Nat.not_le.1 h)⟩

end Sys2Proof.Machine
end
